-- ==== Sys2Proof/Word.lean ====
section
/-! DEFINITION. The word types of the block (spec/00_scope.md R12, R13, R14): bytes, 32-bit words and 64-bit words.

Every word is unsigned and its arithmetic is modulo 2^N, which is what BitVec's `+`, `&&&`, `|||`, `^^^` and `~~~`
compute; the rotations and shifts of R13 stand in Machine/WordOps.lean. A byte string is a list of bytes, indexed from 0. -/

namespace Sys2Proof

/-- A byte, bits 7..0 (R12). -/
abbrev Byte := BitVec 8

/-- A 32-bit word, bits 31..0 (R12). -/
abbrev W32 := BitVec 32

/-- A 64-bit word, bits 63..0 (R12). -/
abbrev W64 := BitVec 64

end Sys2Proof
end

