-- ==== Sys2Proof/Config.lean ====
section
/-! DEFINITION. The named implementation parameters of spec/00_scope.md R11.

`KEY_CAPACITY` is OPEN: "The model takes it as an argument". So it is no constant here: State carries it as a field that
no command writes, every statement about a state holds for every value of it, and only the reset state fixes it, at the
default R11 gives. `NINST` is OPEN too: it is the length of the list of blocks of a system (Machine/System.lean). -/

namespace Sys2Proof

/-- R11: the default of KEY_CAPACITY, the largest value LEN can hold. -/
def keyCapacityDefault : Nat := 2 ^ 31 - 1

/-- R101: a host buffer is at most this long. -/
def maxBufferLength : Nat := 2 ^ 31 - 1

end Sys2Proof
end

