-- ==== Sys2Proof/Syntax.lean ====
section
/-! DEFINITION. The commands of the block (spec/30_encoding.md R151, R155), one constructor per row of
spec/opcode_table.json, and the two enumerations a command's fields select from: the algorithms (R156) and the registers
(spec/10_state.md R65).

A command's fields are kept as the bits the command word holds (ALG 4 bits, IMM 16 bits), so that the reserved codes are
terms of the type and WellFormed.lean can refuse them (R158). The data operand DIN is no part of the command word (R150):
it stands in the command port (Machine/State.lean). -/

namespace Sys2Proof

/-- R156: the seven algorithm configurations, in the order of their ALG codes 0..6. -/
inductive Alg where
  | md5
  | sha1
  | sha256
  | sha224
  | sha512
  | sha384
  | rmd160
deriving DecidableEq, Repr

/-- R65: the six registers RDREG reads. -/
inductive Reg where
  | blockSize
  | hashSize
  | outputSize
  | alg
  | errstat
  | slot
deriving DecidableEq, Repr

/-- R155: the twelve commands. -/
inductive Instr where
  /-- E_INIT (41_engine.md R254): construct an engine of algorithm code `alg`. -/
  | eInit (alg : BitVec 4)
  /-- E_RESET (R255). -/
  | eReset
  /-- E_UPDATE (R257). -/
  | eUpdate
  /-- E_FINALIZE (R262). -/
  | eFinalize
  /-- E_RELEASE (R263). -/
  | eRelease
  /-- H_INIT (47_hmac.md R553): construct an HMAC instance; `imm` is the output size in bits, 0 for the natural size. -/
  | hInit (alg : BitVec 4) (imm : BitVec 16)
  /-- H_SETKEY (R554). -/
  | hSetkey
  /-- H_UPDATE (R555). -/
  | hUpdate
  /-- H_FINALIZE (R556). -/
  | hFinalize
  /-- H_RELEASE (R557). -/
  | hRelease
  /-- H_GETKEY (R558). -/
  | hGetkey
  /-- RDREG (48_query.md R600): read register number `reg`. -/
  | rdreg (reg : BitVec 16)
deriving DecidableEq, Repr

end Sys2Proof
end

