-- ==== Sys2Proof/Machine/Params.lean ====
section
/-! DEFINITION. The per-algorithm parameters (spec/00_scope.md R10, R11; spec/41_engine.md R250), the algorithm codes
(spec/30_encoding.md R156) and the register numbers (spec/10_state.md R65). -/

namespace Sys2Proof

/-- R156: the 4-bit code of an algorithm. -/
def Alg.code : Alg → BitVec 4
  | .md5 => 0
  | .sha1 => 1
  | .sha256 => 2
  | .sha224 => 3
  | .sha512 => 4
  | .sha384 => 5
  | .rmd160 => 6

/-- R156: the algorithm a code selects; 7..15 are reserved. -/
def Alg.ofCode? (a : BitVec 4) : Option Alg :=
  if a = 0#4 then some .md5
  else if a = 1#4 then some .sha1
  else if a = 2#4 then some .sha256
  else if a = 3#4 then some .sha224
  else if a = 4#4 then some .sha512
  else if a = 5#4 then some .sha384
  else if a = 6#4 then some .rmd160
  else none

/-- R103: the two byte orders. -/
inductive ByteOrder where
  | little
  | big
deriving DecidableEq, Repr

/-- R250: BS, the block size in bytes. -/
def Alg.bs : Alg → Nat
  | .md5 | .sha1 | .sha256 | .sha224 | .rmd160 => 64
  | .sha512 | .sha384 => 128

/-- R250: DS, the digest size in bytes. -/
def Alg.ds : Alg → Nat
  | .md5 => 16
  | .sha1 => 20
  | .sha256 => 32
  | .sha224 => 28
  | .sha512 => 64
  | .sha384 => 48
  | .rmd160 => 20

/-- R250: WB, the word size in bits. -/
def Alg.wb : Alg → Nat
  | .md5 | .sha1 | .sha256 | .sha224 | .rmd160 => 32
  | .sha512 | .sha384 => 64

/-- R250: LF, the length-field size in bytes. -/
def Alg.lf : Alg → Nat
  | .md5 | .sha1 | .sha256 | .sha224 | .rmd160 => 8
  | .sha512 | .sha384 => 16

/-- R103, R250: the word and byte order; nothing can switch it. -/
def Alg.order : Alg → ByteOrder
  | .md5 | .rmd160 => .little
  | .sha1 | .sha256 | .sha224 | .sha512 | .sha384 => .big

/-- R250: NW, the number of chaining words. -/
def Alg.nw : Alg → Nat
  | .md5 => 4
  | .sha1 | .rmd160 => 5
  | .sha256 | .sha224 | .sha512 | .sha384 => 8

/-- R11, R268: COUNT_MAX, the most bytes the length field can count in bits. -/
def Alg.countMax (a : Alg) : Nat := if a.lf = 8 then 2 ^ 61 - 1 else 2 ^ 64 - 1

/-- R18: the natural size of a digest, 8·DS bits. -/
def Alg.naturalBits (a : Alg) : Nat := 8 * a.ds

/-- R65: the number of a register. -/
def Reg.number : Reg → BitVec 16
  | .blockSize => 0x0
  | .hashSize => 0x1
  | .outputSize => 0x2
  | .alg => 0x3
  | .errstat => 0x10
  | .slot => 0x11

/-- R65, R158 (f): the register a number names; any other number is illegal. -/
def Reg.ofNumber? (r : BitVec 16) : Option Reg :=
  if r = 0x0#16 then some .blockSize
  else if r = 0x1#16 then some .hashSize
  else if r = 0x2#16 then some .outputSize
  else if r = 0x3#16 then some .alg
  else if r = 0x10#16 then some .errstat
  else if r = 0x11#16 then some .slot
  else none

/-- R65, R600: the registers that need an instance, 0x0..0x3. -/
def Reg.needsInstance : Reg → Bool
  | .blockSize | .hashSize | .outputSize | .alg => true
  | .errstat | .slot => false

end Sys2Proof
end

