-- ==== Sys2Proof/WellFormed.lean ====
section
/-! DEFINITION. Which terms of Instr are commands (spec/30_encoding.md R155, R158): the algorithm code of an INIT is one of
0..6 (R158 (c)), and a register number is one of R65's (R158 (f)). Every other field combination R158 makes illegal
(RSV, an unused ALG, an unused IMM, an unlisted OPC) is no term of Instr. H_INIT's output size is not checked here: a bad
one is a legal command word that fails with ERR_CONFIG when it runs (R157, 60_exceptions.md R656). -/

namespace Sys2Proof

/-- R155, R158: the command is one of the table's. -/
def Instr.wellFormed : Instr → Bool
  | .eInit a => (Alg.ofCode? a).isSome
  | .eReset => true
  | .eUpdate => true
  | .eFinalize => true
  | .eRelease => true
  | .hInit a _ => (Alg.ofCode? a).isSome
  | .hSetkey => true
  | .hUpdate => true
  | .hFinalize => true
  | .hRelease => true
  | .hGetkey => true
  | .rdreg r => (Reg.ofNumber? r).isSome

end Sys2Proof
end

