-- ==== Sys2Proof/Decode.lean ====
section
/-! DEFINITION. The command word (spec/30_encoding.md): its fields (R151, R152), the total decoder (R158, R161), the encoder
(R155, R162) and the opcode table's match and mask rows (R155).

Decoding reads the command word alone, never the block's state (R161). A word that is no command is rejected with the
condition of R158 it meets, the first in the order (a), (b), (c)/(d), (e)/(f); the block itself reports every one of them
as ERR_ILLEGAL (R653). -/

namespace Sys2Proof

/-- R152: OPC = CW[31:24]. -/
def cwOpc (w : W32) : BitVec 8 := w.extractLsb' 24 8

/-- R152: ALG = CW[23:20]. -/
def cwAlg (w : W32) : BitVec 4 := w.extractLsb' 20 4

/-- R151, R152: RSV = CW[19:16]. -/
def cwRsv (w : W32) : BitVec 4 := w.extractLsb' 16 4

/-- R152: IMM = CW[15:0]. -/
def cwImm (w : W32) : BitVec 16 := w.extractLsb' 0 16

/-- R158: why a command word is illegal, one name for each condition. -/
inductive Illegal where
  /-- (a) OPC is not in R155's table. -/
  | opcode
  /-- (b) RSV is not 0. -/
  | reserved
  /-- (c) an INIT with a reserved algorithm code. -/
  | algCode
  /-- (d) ALG is not 0 in a command that does not use it. -/
  | algUnused
  /-- (e) IMM is not 0 in a command that does not use it. -/
  | immUnused
  /-- (f) RDREG of a number that is no register's. -/
  | regNumber
deriving DecidableEq, Repr

/-- R158 (b), (d), (e): a command whose word is fixed whole apart from its OPC. -/
def decodeFixed (i : Instr) (w : W32) : Except Illegal Instr :=
  if cwRsv w ≠ 0#4 then .error .reserved
  else if cwAlg w ≠ 0#4 then .error .algUnused
  else if cwImm w ≠ 0#16 then .error .immUnused
  else .ok i

/-- R158 (b), (c), (e): E_INIT uses ALG and not IMM. -/
def decodeEInit (w : W32) : Except Illegal Instr :=
  if cwRsv w ≠ 0#4 then .error .reserved
  else if (Alg.ofCode? (cwAlg w)).isNone then .error .algCode
  else if cwImm w ≠ 0#16 then .error .immUnused
  else .ok (.eInit (cwAlg w))

/-- R158 (b), (c): H_INIT uses ALG and IMM. -/
def decodeHInit (w : W32) : Except Illegal Instr :=
  if cwRsv w ≠ 0#4 then .error .reserved
  else if (Alg.ofCode? (cwAlg w)).isNone then .error .algCode
  else .ok (.hInit (cwAlg w) (cwImm w))

/-- R158 (b), (d), (f): RDREG uses IMM and not ALG. -/
def decodeRdreg (w : W32) : Except Illegal Instr :=
  if cwRsv w ≠ 0#4 then .error .reserved
  else if cwAlg w ≠ 0#4 then .error .algUnused
  else if (Reg.ofNumber? (cwImm w)).isNone then .error .regNumber
  else .ok (.rdreg (cwImm w))

/-- R155, R161: every 32-bit word is exactly one of the twelve commands, or illegal. -/
def decode (w : W32) : Except Illegal Instr :=
  if cwOpc w = 0x01#8 then decodeEInit w
  else if cwOpc w = 0x02#8 then decodeFixed .eReset w
  else if cwOpc w = 0x03#8 then decodeFixed .eUpdate w
  else if cwOpc w = 0x04#8 then decodeFixed .eFinalize w
  else if cwOpc w = 0x05#8 then decodeFixed .eRelease w
  else if cwOpc w = 0x11#8 then decodeHInit w
  else if cwOpc w = 0x12#8 then decodeFixed .hSetkey w
  else if cwOpc w = 0x13#8 then decodeFixed .hUpdate w
  else if cwOpc w = 0x14#8 then decodeFixed .hFinalize w
  else if cwOpc w = 0x15#8 then decodeFixed .hRelease w
  else if cwOpc w = 0x16#8 then decodeFixed .hGetkey w
  else if cwOpc w = 0x21#8 then decodeRdreg w
  else .error .opcode

/-- R151: the word of the fields OPC, ALG and IMM, RSV being 0: `OOOOOOOO AAAA RRRR IIIIIIIIIIIIIIII`. -/
def packFields (opc : BitVec 8) (alg : BitVec 4) (imm : BitVec 16) : W32 := opc ++ alg ++ 0#4 ++ imm

/-- R155, R162: the command word of a command. -/
def encode : Instr → W32
  | .eInit a => packFields 0x01#8 a 0#16
  | .eReset => packFields 0x02#8 0#4 0#16
  | .eUpdate => packFields 0x03#8 0#4 0#16
  | .eFinalize => packFields 0x04#8 0#4 0#16
  | .eRelease => packFields 0x05#8 0#4 0#16
  | .hInit a imm => packFields 0x11#8 a imm
  | .hSetkey => packFields 0x12#8 0#4 0#16
  | .hUpdate => packFields 0x13#8 0#4 0#16
  | .hFinalize => packFields 0x14#8 0#4 0#16
  | .hRelease => packFields 0x15#8 0#4 0#16
  | .hGetkey => packFields 0x16#8 0#4 0#16
  | .rdreg r => packFields 0x21#8 0#4 r

/-- The instruction the decoder reads from an instruction of `nbits` bits whose bits are `w`, numbered as
spec/opcode_table.json numbers them. A command is one 32-bit word (R150, R160), so bits above `nbits` are 0 and no
command is longer than 32 bits. -/
def decodeTableWord (nbits w : Nat) : Option Instr :=
  if nbits ≤ 32 then (decode (BitVec.ofNat 32 (w % 2 ^ nbits))).toOption else none

/-- One row of R155's match and mask table: "mask bits 1 are fixed; a command word w selects the row when
`w & mask = match`". -/
structure OpcodeRow where
  mnemonic : String
  value : W32
  mask : W32
deriving DecidableEq, Repr

/-- R155: the row is selected by the command word. -/
def OpcodeRow.selects (r : OpcodeRow) (w : W32) : Bool := w &&& r.mask == r.value

/-- R155: the match and mask values. -/
def opcodeRows : List OpcodeRow :=
  [ ⟨"E_INIT", 0x01000000#32, 0xFF0FFFFF#32⟩
  , ⟨"E_RESET", 0x02000000#32, 0xFFFFFFFF#32⟩
  , ⟨"E_UPDATE", 0x03000000#32, 0xFFFFFFFF#32⟩
  , ⟨"E_FINALIZE", 0x04000000#32, 0xFFFFFFFF#32⟩
  , ⟨"E_RELEASE", 0x05000000#32, 0xFFFFFFFF#32⟩
  , ⟨"H_INIT", 0x11000000#32, 0xFF0F0000#32⟩
  , ⟨"H_SETKEY", 0x12000000#32, 0xFFFFFFFF#32⟩
  , ⟨"H_UPDATE", 0x13000000#32, 0xFFFFFFFF#32⟩
  , ⟨"H_FINALIZE", 0x14000000#32, 0xFFFFFFFF#32⟩
  , ⟨"H_RELEASE", 0x15000000#32, 0xFFFFFFFF#32⟩
  , ⟨"H_GETKEY", 0x16000000#32, 0xFFFFFFFF#32⟩
  , ⟨"RDREG", 0x21000000#32, 0xFFFF0000#32⟩ ]

/-- The mnemonic of a command, as R155's table spells it. -/
def Instr.mnemonic : Instr → String
  | .eInit _ => "E_INIT"
  | .eReset => "E_RESET"
  | .eUpdate => "E_UPDATE"
  | .eFinalize => "E_FINALIZE"
  | .eRelease => "E_RELEASE"
  | .hInit _ _ => "H_INIT"
  | .hSetkey => "H_SETKEY"
  | .hUpdate => "H_UPDATE"
  | .hFinalize => "H_FINALIZE"
  | .hRelease => "H_RELEASE"
  | .hGetkey => "H_GETKEY"
  | .rdreg _ => "RDREG"

end Sys2Proof
end

