-- ==== Sys2Proof/Machine/State.lean ====
section
/-! DEFINITION. The state of one block (spec/10_state.md), its command and result port (spec/30_encoding.md R150, R153,
R154), its reasons to stop, and the state after power-on reset (R69, R700).

The block has no register file, no program counter, no flags and no address space (R51, R52, R53, R100), so State holds
none. The engine of an engine instance and the wrapped engine E of an HMAC instance are the one record `engine`: a block
holds one instance at a time (R50), and "ALG <- a; E.ALG <- a" (R553) keeps the two copies of ALG equal (R601). -/

namespace Sys2Proof.Machine

/-- R50: what the block's slot holds. -/
inductive Slot where
  | empty
  | engine
  | hmac
deriving DecidableEq, Repr

/-- R650: the status codes; 9..15 are never returned. -/
inductive Status where
  /-- 0 OK: the command completed. -/
  | ok
  /-- 1 ERR_ILLEGAL. -/
  | illegal
  /-- 2 ERR_RELEASED. -/
  | released
  /-- 3 ERR_KIND. -/
  | kind
  /-- 4 ERR_NULL. -/
  | null
  /-- 5 ERR_NEGATIVE. -/
  | negative
  /-- 6 ERR_RANGE. -/
  | range
  /-- 7 ERR_CONFIG. -/
  | config
  /-- 8 ERR_LENGTH. -/
  | length
deriving DecidableEq, Repr

/-- Four words in order: MD5's H[0..3] or its working variables a, b, c, d. -/
structure Words4 (α : Type) where
  w0 : α
  w1 : α
  w2 : α
  w3 : α
deriving DecidableEq, Repr

/-- Five words in order: H[0..4], or the working variables of SHA-1 or of one line of RIPEMD-160. -/
structure Words5 (α : Type) where
  w0 : α
  w1 : α
  w2 : α
  w3 : α
  w4 : α
deriving DecidableEq, Repr

/-- Eight words in order: H[0..7], or the working variables a..h of a SHA-2 engine. -/
structure Words8 (α : Type) where
  w0 : α
  w1 : α
  w2 : α
  w3 : α
  w4 : α
  w5 : α
  w6 : α
  w7 : α
deriving DecidableEq, Repr

/-- R54, R55, R56: ALG together with the chaining state H. The algorithm fixes the number and the width of H's words
(R56), so the two are one datum: an engine whose H does not fit its ALG is no term. `Chain.alg` reads ALG. -/
inductive Chain where
  | md5 (h : Words4 W32)
  | sha1 (h : Words5 W32)
  | sha256 (h : Words8 W32)
  | sha224 (h : Words8 W32)
  | sha512 (h : Words8 W64)
  | sha384 (h : Words8 W64)
  | rmd160 (h : Words5 W32)
deriving DecidableEq, Repr

/-- R55: the ALG element. -/
def Chain.alg : Chain → Alg
  | .md5 _ => .md5
  | .sha1 _ => .sha1
  | .sha256 _ => .sha256
  | .sha224 _ => .sha224
  | .sha512 _ => .sha512
  | .sha384 _ => .sha384
  | .rmd160 _ => .rmd160

/-- R59: the transient scratch of the compression functions, "owned by the engine instance": up to ten working variables
(RIPEMD-160's two lines) and up to eighty message or schedule words (SHA-1, SHA-512), each at most 64 bits wide. -/
structure Scratch where
  vars : List W64
  words : List W64
deriving DecidableEq, Repr

/-- R59: the scratch after a compression, all zero. -/
def Scratch.cleared : Scratch := ⟨List.replicate 10 0, List.replicate 80 0⟩

/-- R54: an engine: ALG and H (`chain`), PBUF, COUNT, and the scratch of its compressions (R59). PLEN is `pbuf.length`;
the BS storage bytes are `pbuf` followed by zeros (R57, 93_implementation_defined.md U11). -/
structure Engine where
  chain : Chain
  pbuf : List Byte
  count : Nat
  scratch : Scratch
deriving DecidableEq, Repr

/-- R55: ALG of an engine. -/
def Engine.alg (e : Engine) : Alg := e.chain.alg

/-- R57: PLEN, the number of pending bytes. -/
def Engine.plen (e : Engine) : Nat := e.pbuf.length

/-- R153: the data operand DIN = (BUF, OFF, LEN); `none` is a NULL buffer, and OFF and LEN are read as two's complement. -/
structure Din where
  buf : Option (List Byte)
  off : W32
  len : W32
deriving DecidableEq, Repr

/-- R150: a command is a pair (CW, DIN). -/
structure Command where
  cw : W32
  din : Din
deriving DecidableEq, Repr

/-- R154: the result of a command. STATUS is a 4-bit code, RVAL a 32-bit value, DOUT a byte string. -/
structure Result where
  status : Status
  rval : W32
  dout : List Byte
deriving DecidableEq, Repr

/-- The state of one block. Fields `slot` to `outBits` are R69's elements; `keyCapacity` is R11's parameter KEY_CAPACITY;
`port`, `din` and `result` are the command port of R150 to R154. -/
structure State where
  /-- SLOT (R50). -/
  slot : Slot
  /-- ERRSTAT (R64). -/
  errstat : Status
  /-- The engine, or the wrapped engine E: ALG, H, PBUF, PLEN, COUNT (R54 to R58, R60) and the scratch (R59). -/
  engine : Engine
  /-- IPAD (R61). -/
  ipad : List Byte
  /-- OPAD (R61). -/
  opad : List Byte
  /-- KEY, of KLEN bytes (R62). -/
  key : List Byte
  /-- OUTBITS (R63). -/
  outBits : Nat
  /-- KEY_CAPACITY (R11): the implementation's parameter, which no command writes. -/
  keyCapacity : Nat
  /-- The commands the host has issued and the block has not executed, in the order of issue (R108). -/
  port : List Command
  /-- DIN of the command being executed (R150). -/
  din : Din
  /-- The result the last command returned (R154); `none` before the first one returns. -/
  result : Option Result
deriving DecidableEq, Repr

/-- The block never faults: "no behaviour of this block faults or hangs" (93_implementation_defined.md), it has no trap
(R659), and an error is a status code (R650). So there is no constructor, and that no step faults holds by type. Safe. -/
inductive Fault where
deriving DecidableEq, Repr

/-- Why a step gives no next state. -/
inductive Refusal where
  /-- Raised by exec alone, for a command that has no meaning yet. Safe: nothing is claimed of it. No arm raises it. -/
  | notModelled (mnemonic : String)
deriving DecidableEq, Repr

/-- R69: H is all zero and ALG is 0 (MD5, whose H has four words). -/
def Chain.zero : Chain := .md5 ⟨0, 0, 0, 0⟩

/-- R69: an engine's elements after power-on reset. -/
def Engine.zero : Engine := ⟨.zero, [], 0, .cleared⟩

/-- R69: IPAD and OPAD after power-on reset, BS bytes of ALG 0, all zero. -/
def padZero : List Byte := List.replicate 64 0

/-- An operand port at which the host presents no buffer. -/
def Din.absent : Din := ⟨none, 0, 0⟩

/-- R69, R700: the state after power-on reset. The port holds no command and no result (the host has issued none), and
KEY_CAPACITY has its default (R11). -/
def State.reset : State where
  slot := .empty
  errstat := .ok
  engine := .zero
  ipad := padZero
  opad := padZero
  key := []
  outBits := 0
  keyCapacity := keyCapacityDefault
  port := []
  din := .absent
  result := none

end Sys2Proof.Machine
end

