-- ==== Sys2Proof/Machine/WordOps.lean ====
section
/-! DEFINITION. Rotations and shifts (spec/00_scope.md R13) and the reading of two's-complement operands (R14). -/

namespace Sys2Proof.Machine

/-- R13: `rotl_N(x, n) = ((x << n) | (x >> (N − n))) mod 2^N`, for 0 < n < N. -/
def rotl {N : Nat} (x : BitVec N) (n : Nat) : BitVec N := (x <<< n) ||| (x >>> (N - n))

/-- R13: `rotr_N(x, n) = rotl_N(x, N − n)`. -/
def rotr {N : Nat} (x : BitVec N) (n : Nat) : BitVec N := rotl x (N - n)

/-- R13: the logical right shift, with zero fill. -/
def shr {N : Nat} (x : BitVec N) (n : Nat) : BitVec N := x >>> n

/-- R14: `sext_32(v)`, a signed integer in [−2^31, 2^31 − 1]. -/
def sext32 (v : W32) : Int := v.toInt

end Sys2Proof.Machine
end

