-- ==== Sys2Proof/Machine/Endian.lean ====
section
/-! DEFINITION. The endian word pack and unpack units (spec/40_endian.md R200 to R210). Unpack turns bytes into a word,
pack turns a word into bytes. None has a command word and none reads or writes state.

A unit is called with indices in range (R15, 40_endian.md): `s.getD k 0` stands for `s[k]`, and the 0 it would give beyond
the end is never used by an engine. -/

namespace Sys2Proof.Machine

/-- `zext_N(s[k])` (R14). -/
def byteAt (N : Nat) (s : List Byte) (k : Nat) : BitVec N := (s.getD k 0).zeroExtend N

/-- R201. -/
def unpack32le (s : List Byte) (i : Nat) : W32 :=
  byteAt 32 s i ||| byteAt 32 s (i + 1) <<< 8 ||| byteAt 32 s (i + 2) <<< 16 ||| byteAt 32 s (i + 3) <<< 24

/-- R202. -/
def unpack32be (s : List Byte) (i : Nat) : W32 :=
  byteAt 32 s i <<< 24 ||| byteAt 32 s (i + 1) <<< 16 ||| byteAt 32 s (i + 2) <<< 8 ||| byteAt 32 s (i + 3)

/-- R203: the sum over k of `zext_64(s[i+k]) << 8k`. -/
def unpack64le (s : List Byte) (i : Nat) : W64 :=
  byteAt 64 s i + byteAt 64 s (i + 1) <<< 8 + byteAt 64 s (i + 2) <<< 16 + byteAt 64 s (i + 3) <<< 24
    + byteAt 64 s (i + 4) <<< 32 + byteAt 64 s (i + 5) <<< 40 + byteAt 64 s (i + 6) <<< 48 + byteAt 64 s (i + 7) <<< 56

/-- R204: the sum over k of `zext_64(s[i+k]) << 8(7−k)`. -/
def unpack64be (s : List Byte) (i : Nat) : W64 :=
  byteAt 64 s i <<< 56 + byteAt 64 s (i + 1) <<< 48 + byteAt 64 s (i + 2) <<< 40 + byteAt 64 s (i + 3) <<< 32
    + byteAt 64 s (i + 4) <<< 24 + byteAt 64 s (i + 5) <<< 16 + byteAt 64 s (i + 6) <<< 8 + byteAt 64 s (i + 7)

/-- `w[lo+7:lo]` (R12). -/
def byteOf {N : Nat} (w : BitVec N) (lo : Nat) : Byte := w.extractLsb' lo 8

/-- R205. -/
def pack32le (w : W32) : List Byte := [byteOf w 0, byteOf w 8, byteOf w 16, byteOf w 24]

/-- R206. -/
def pack32be (w : W32) : List Byte := [byteOf w 24, byteOf w 16, byteOf w 8, byteOf w 0]

/-- R207. -/
def pack64le (w : W64) : List Byte :=
  [byteOf w 0, byteOf w 8, byteOf w 16, byteOf w 24, byteOf w 32, byteOf w 40, byteOf w 48, byteOf w 56]

/-- R208. -/
def pack64be (w : W64) : List Byte :=
  [byteOf w 56, byteOf w 48, byteOf w 40, byteOf w 32, byteOf w 24, byteOf w 16, byteOf w 8, byteOf w 0]

/-- The words of a chaining state, H[0] first. -/
def Words4.toList {α : Type} (h : Words4 α) : List α := [h.w0, h.w1, h.w2, h.w3]

/-- The words of a chaining state, H[0] first. -/
def Words5.toList {α : Type} (h : Words5 α) : List α := [h.w0, h.w1, h.w2, h.w3, h.w4]

/-- The words of a chaining state, H[0] first. -/
def Words8.toList {α : Type} (h : Words8 α) : List α := [h.w0, h.w1, h.w2, h.w3, h.w4, h.w5, h.w6, h.w7]

/-- R209: `packwords(alg, H)`, the chaining words as bytes, H[0] first, in the algorithm's width and order. -/
def packWords : Chain → List Byte
  | .md5 h => h.toList.flatMap pack32le
  | .sha1 h => h.toList.flatMap pack32be
  | .sha256 h => h.toList.flatMap pack32be
  | .sha224 h => h.toList.flatMap pack32be
  | .sha512 h => h.toList.flatMap pack64be
  | .sha384 h => h.toList.flatMap pack64be
  | .rmd160 h => h.toList.flatMap pack32le

/-- R210: sixteen message words of a block, by a 32-bit unit: `M[j] = U(B, 4j)`. -/
def unpackBlock32 (unit : List Byte → Nat → W32) (b : List Byte) : List W32 :=
  (List.range 16).map fun j => unit b (4 * j)

/-- R210: sixteen message words of a block, by a 64-bit unit: `M[j] = U(B, 8j)`. -/
def unpackBlock64 (unit : List Byte → Nat → W64) (b : List Byte) : List W64 :=
  (List.range 16).map fun j => unit b (8 * j)

end Sys2Proof.Machine
end

