-- ==== Sys2Proof/Machine/Md5.lean ====
section
/-! DEFINITION. The MD5 compression engine (spec/42_md5.md R300 to R308). -/

namespace Sys2Proof.Machine

/-- R303: which auxiliary function a step uses. -/
inductive Md5Fn where
  | f
  | g
  | h
  | i
deriving DecidableEq, Repr

/-- R303: the four auxiliary functions F, G, H, I. -/
def md5Fn : Md5Fn → W32 → W32 → W32 → W32
  | .f, x, y, z => (x &&& y) ||| (~~~x &&& z)
  | .g, x, y, z => (x &&& z) ||| (y &&& ~~~z)
  | .h, x, y, z => x ^^^ y ^^^ z
  | .i, x, y, z => y ^^^ (x ||| ~~~z)

/-- R306: one row of the step table: the function, the message index k(i), the rotation s(i), the constant T[i]. -/
structure Md5Row where
  fn : Md5Fn
  k : Nat
  s : Nat
  t : W32
deriving DecidableEq, Repr

/-- R306, steps 0..15. -/
def md5Rows1 : List Md5Row :=
  [ ⟨.f, 0, 7, 0xD76AA478⟩
  , ⟨.f, 1, 12, 0xE8C7B756⟩
  , ⟨.f, 2, 17, 0x242070DB⟩
  , ⟨.f, 3, 22, 0xC1BDCEEE⟩
  , ⟨.f, 4, 7, 0xF57C0FAF⟩
  , ⟨.f, 5, 12, 0x4787C62A⟩
  , ⟨.f, 6, 17, 0xA8304613⟩
  , ⟨.f, 7, 22, 0xFD469501⟩
  , ⟨.f, 8, 7, 0x698098D8⟩
  , ⟨.f, 9, 12, 0x8B44F7AF⟩
  , ⟨.f, 10, 17, 0xFFFF5BB1⟩
  , ⟨.f, 11, 22, 0x895CD7BE⟩
  , ⟨.f, 12, 7, 0x6B901122⟩
  , ⟨.f, 13, 12, 0xFD987193⟩
  , ⟨.f, 14, 17, 0xA679438E⟩
  , ⟨.f, 15, 22, 0x49B40821⟩ ]

/-- R306, steps 16..31. -/
def md5Rows2 : List Md5Row :=
  [ ⟨.g, 1, 5, 0xF61E2562⟩
  , ⟨.g, 6, 9, 0xC040B340⟩
  , ⟨.g, 11, 14, 0x265E5A51⟩
  , ⟨.g, 0, 20, 0xE9B6C7AA⟩
  , ⟨.g, 5, 5, 0xD62F105D⟩
  , ⟨.g, 10, 9, 0x02441453⟩
  , ⟨.g, 15, 14, 0xD8A1E681⟩
  , ⟨.g, 4, 20, 0xE7D3FBC8⟩
  , ⟨.g, 9, 5, 0x21E1CDE6⟩
  , ⟨.g, 14, 9, 0xC33707D6⟩
  , ⟨.g, 3, 14, 0xF4D50D87⟩
  , ⟨.g, 8, 20, 0x455A14ED⟩
  , ⟨.g, 13, 5, 0xA9E3E905⟩
  , ⟨.g, 2, 9, 0xFCEFA3F8⟩
  , ⟨.g, 7, 14, 0x676F02D9⟩
  , ⟨.g, 12, 20, 0x8D2A4C8A⟩ ]

/-- R306, steps 32..47. -/
def md5Rows3 : List Md5Row :=
  [ ⟨.h, 5, 4, 0xFFFA3942⟩
  , ⟨.h, 8, 11, 0x8771F681⟩
  , ⟨.h, 11, 16, 0x6D9D6122⟩
  , ⟨.h, 14, 23, 0xFDE5380C⟩
  , ⟨.h, 1, 4, 0xA4BEEA44⟩
  , ⟨.h, 4, 11, 0x4BDECFA9⟩
  , ⟨.h, 7, 16, 0xF6BB4B60⟩
  , ⟨.h, 10, 23, 0xBEBFBC70⟩
  , ⟨.h, 13, 4, 0x289B7EC6⟩
  , ⟨.h, 0, 11, 0xEAA127FA⟩
  , ⟨.h, 3, 16, 0xD4EF3085⟩
  , ⟨.h, 6, 23, 0x04881D05⟩
  , ⟨.h, 9, 4, 0xD9D4D039⟩
  , ⟨.h, 12, 11, 0xE6DB99E5⟩
  , ⟨.h, 15, 16, 0x1FA27CF8⟩
  , ⟨.h, 2, 23, 0xC4AC5665⟩ ]

/-- R306, steps 48..63. -/
def md5Rows4 : List Md5Row :=
  [ ⟨.i, 0, 6, 0xF4292244⟩
  , ⟨.i, 7, 10, 0x432AFF97⟩
  , ⟨.i, 14, 15, 0xAB9423A7⟩
  , ⟨.i, 5, 21, 0xFC93A039⟩
  , ⟨.i, 12, 6, 0x655B59C3⟩
  , ⟨.i, 3, 10, 0x8F0CCC92⟩
  , ⟨.i, 10, 15, 0xFFEFF47D⟩
  , ⟨.i, 1, 21, 0x85845DD1⟩
  , ⟨.i, 8, 6, 0x6FA87E4F⟩
  , ⟨.i, 15, 10, 0xFE2CE6E0⟩
  , ⟨.i, 6, 15, 0xA3014314⟩
  , ⟨.i, 13, 21, 0x4E0811A1⟩
  , ⟨.i, 4, 6, 0xF7537E82⟩
  , ⟨.i, 11, 10, 0xBD3AF235⟩
  , ⟨.i, 2, 15, 0x2AD7D2BB⟩
  , ⟨.i, 9, 21, 0xEB86D391⟩ ]

/-- R306: the complete step table. -/
def md5Rows : List Md5Row := md5Rows1 ++ md5Rows2 ++ md5Rows3 ++ md5Rows4

/-- R301: the initial chaining constants IV(0). -/
def md5Iv : Words4 W32 := ⟨0x67452301, 0xEFCDAB89, 0x98BADCFE, 0x10325476⟩

/-- R307: one step, on the working variables a, b, c, d. -/
def md5Step (x : List W32) (v : Words4 W32) (r : Md5Row) : Words4 W32 :=
  let f := md5Fn r.fn v.w1 v.w2 v.w3
  let t := v.w0 + f + x.getD r.k 0 + r.t
  ⟨v.w3, v.w1 + rotl t r.s, v.w1, v.w2⟩

/-- R302: the message words of a block. -/
def md5Words (b : List Byte) : List W32 := unpackBlock32 unpack32le b

/-- R308: the working variables after the 64 steps. -/
def md5Rounds (h : Words4 W32) (b : List Byte) : Words4 W32 := md5Rows.foldl (md5Step (md5Words b)) h

/-- R308: `MD5Compress(H, B)`. -/
def md5Compress (h : Words4 W32) (b : List Byte) : Words4 W32 :=
  let v := md5Rounds h b
  ⟨h.w0 + v.w0, h.w1 + v.w1, h.w2 + v.w2, h.w3 + v.w3⟩

end Sys2Proof.Machine
end

