-- ==== Sys2Proof/Machine/Ripemd160.lean ====
section
/-! DEFINITION. The RIPEMD-160 compression engine (spec/46_ripemd160.md R500 to R508). -/

namespace Sys2Proof.Machine

/-- R503: which boolean function a step uses. -/
inductive RmdFn where
  | f1
  | f2
  | f3
  | f4
  | f5
deriving DecidableEq, Repr

/-- R503: the five boolean functions. -/
def rmdFn : RmdFn → W32 → W32 → W32 → W32
  | .f1, x, y, z => x ^^^ y ^^^ z
  | .f2, x, y, z => (x &&& y) ||| (~~~x &&& z)
  | .f3, x, y, z => (x ||| ~~~y) ^^^ z
  | .f4, x, y, z => (x &&& z) ||| (y &&& ~~~z)
  | .f5, x, y, z => x ^^^ (y ||| ~~~z)

/-- R505: one line's half of a row of the step table: the function, the constant, the message index, the rotation. -/
structure RmdRow where
  fn : RmdFn
  k : W32
  r : Nat
  s : Nat
deriving DecidableEq, Repr

/-- R505: the left line, steps 0..15. -/
def rmdLeft0 : List RmdRow :=
  [ ⟨.f1, 0x00000000, 0, 11⟩
  , ⟨.f1, 0x00000000, 1, 14⟩
  , ⟨.f1, 0x00000000, 2, 15⟩
  , ⟨.f1, 0x00000000, 3, 12⟩
  , ⟨.f1, 0x00000000, 4, 5⟩
  , ⟨.f1, 0x00000000, 5, 8⟩
  , ⟨.f1, 0x00000000, 6, 7⟩
  , ⟨.f1, 0x00000000, 7, 9⟩
  , ⟨.f1, 0x00000000, 8, 11⟩
  , ⟨.f1, 0x00000000, 9, 13⟩
  , ⟨.f1, 0x00000000, 10, 14⟩
  , ⟨.f1, 0x00000000, 11, 15⟩
  , ⟨.f1, 0x00000000, 12, 6⟩
  , ⟨.f1, 0x00000000, 13, 7⟩
  , ⟨.f1, 0x00000000, 14, 9⟩
  , ⟨.f1, 0x00000000, 15, 8⟩ ]

/-- R505: the left line, steps 16..31. -/
def rmdLeft1 : List RmdRow :=
  [ ⟨.f2, 0x5A827999, 7, 7⟩
  , ⟨.f2, 0x5A827999, 4, 6⟩
  , ⟨.f2, 0x5A827999, 13, 8⟩
  , ⟨.f2, 0x5A827999, 1, 13⟩
  , ⟨.f2, 0x5A827999, 10, 11⟩
  , ⟨.f2, 0x5A827999, 6, 9⟩
  , ⟨.f2, 0x5A827999, 15, 7⟩
  , ⟨.f2, 0x5A827999, 3, 15⟩
  , ⟨.f2, 0x5A827999, 12, 7⟩
  , ⟨.f2, 0x5A827999, 0, 12⟩
  , ⟨.f2, 0x5A827999, 9, 15⟩
  , ⟨.f2, 0x5A827999, 5, 9⟩
  , ⟨.f2, 0x5A827999, 2, 11⟩
  , ⟨.f2, 0x5A827999, 14, 7⟩
  , ⟨.f2, 0x5A827999, 11, 13⟩
  , ⟨.f2, 0x5A827999, 8, 12⟩ ]

/-- R505: the left line, steps 32..47. -/
def rmdLeft2 : List RmdRow :=
  [ ⟨.f3, 0x6ED9EBA1, 3, 11⟩
  , ⟨.f3, 0x6ED9EBA1, 10, 13⟩
  , ⟨.f3, 0x6ED9EBA1, 14, 6⟩
  , ⟨.f3, 0x6ED9EBA1, 4, 7⟩
  , ⟨.f3, 0x6ED9EBA1, 9, 14⟩
  , ⟨.f3, 0x6ED9EBA1, 15, 9⟩
  , ⟨.f3, 0x6ED9EBA1, 8, 13⟩
  , ⟨.f3, 0x6ED9EBA1, 1, 15⟩
  , ⟨.f3, 0x6ED9EBA1, 2, 14⟩
  , ⟨.f3, 0x6ED9EBA1, 7, 8⟩
  , ⟨.f3, 0x6ED9EBA1, 0, 13⟩
  , ⟨.f3, 0x6ED9EBA1, 6, 6⟩
  , ⟨.f3, 0x6ED9EBA1, 13, 5⟩
  , ⟨.f3, 0x6ED9EBA1, 11, 12⟩
  , ⟨.f3, 0x6ED9EBA1, 5, 7⟩
  , ⟨.f3, 0x6ED9EBA1, 12, 5⟩ ]

/-- R505: the left line, steps 48..63. -/
def rmdLeft3 : List RmdRow :=
  [ ⟨.f4, 0x8F1BBCDC, 1, 11⟩
  , ⟨.f4, 0x8F1BBCDC, 9, 12⟩
  , ⟨.f4, 0x8F1BBCDC, 11, 14⟩
  , ⟨.f4, 0x8F1BBCDC, 10, 15⟩
  , ⟨.f4, 0x8F1BBCDC, 0, 14⟩
  , ⟨.f4, 0x8F1BBCDC, 8, 15⟩
  , ⟨.f4, 0x8F1BBCDC, 12, 9⟩
  , ⟨.f4, 0x8F1BBCDC, 4, 8⟩
  , ⟨.f4, 0x8F1BBCDC, 13, 9⟩
  , ⟨.f4, 0x8F1BBCDC, 3, 14⟩
  , ⟨.f4, 0x8F1BBCDC, 7, 5⟩
  , ⟨.f4, 0x8F1BBCDC, 15, 6⟩
  , ⟨.f4, 0x8F1BBCDC, 14, 8⟩
  , ⟨.f4, 0x8F1BBCDC, 5, 6⟩
  , ⟨.f4, 0x8F1BBCDC, 6, 5⟩
  , ⟨.f4, 0x8F1BBCDC, 2, 12⟩ ]

/-- R505: the left line, steps 64..79. -/
def rmdLeft4 : List RmdRow :=
  [ ⟨.f5, 0xA953FD4E, 4, 9⟩
  , ⟨.f5, 0xA953FD4E, 0, 15⟩
  , ⟨.f5, 0xA953FD4E, 5, 5⟩
  , ⟨.f5, 0xA953FD4E, 9, 11⟩
  , ⟨.f5, 0xA953FD4E, 7, 6⟩
  , ⟨.f5, 0xA953FD4E, 12, 8⟩
  , ⟨.f5, 0xA953FD4E, 2, 13⟩
  , ⟨.f5, 0xA953FD4E, 10, 12⟩
  , ⟨.f5, 0xA953FD4E, 14, 5⟩
  , ⟨.f5, 0xA953FD4E, 1, 12⟩
  , ⟨.f5, 0xA953FD4E, 3, 13⟩
  , ⟨.f5, 0xA953FD4E, 8, 14⟩
  , ⟨.f5, 0xA953FD4E, 11, 11⟩
  , ⟨.f5, 0xA953FD4E, 6, 8⟩
  , ⟨.f5, 0xA953FD4E, 15, 5⟩
  , ⟨.f5, 0xA953FD4E, 13, 6⟩ ]

/-- R505: the left line's eighty steps. -/
def rmdLeft : List RmdRow := rmdLeft0 ++ rmdLeft1 ++ rmdLeft2 ++ rmdLeft3 ++ rmdLeft4

/-- R505: the right line, steps 0..15. -/
def rmdRight0 : List RmdRow :=
  [ ⟨.f5, 0x50A28BE6, 5, 8⟩
  , ⟨.f5, 0x50A28BE6, 14, 9⟩
  , ⟨.f5, 0x50A28BE6, 7, 9⟩
  , ⟨.f5, 0x50A28BE6, 0, 11⟩
  , ⟨.f5, 0x50A28BE6, 9, 13⟩
  , ⟨.f5, 0x50A28BE6, 2, 15⟩
  , ⟨.f5, 0x50A28BE6, 11, 15⟩
  , ⟨.f5, 0x50A28BE6, 4, 5⟩
  , ⟨.f5, 0x50A28BE6, 13, 7⟩
  , ⟨.f5, 0x50A28BE6, 6, 7⟩
  , ⟨.f5, 0x50A28BE6, 15, 8⟩
  , ⟨.f5, 0x50A28BE6, 8, 11⟩
  , ⟨.f5, 0x50A28BE6, 1, 14⟩
  , ⟨.f5, 0x50A28BE6, 10, 14⟩
  , ⟨.f5, 0x50A28BE6, 3, 12⟩
  , ⟨.f5, 0x50A28BE6, 12, 6⟩ ]

/-- R505: the right line, steps 16..31. -/
def rmdRight1 : List RmdRow :=
  [ ⟨.f4, 0x5C4DD124, 6, 9⟩
  , ⟨.f4, 0x5C4DD124, 11, 13⟩
  , ⟨.f4, 0x5C4DD124, 3, 15⟩
  , ⟨.f4, 0x5C4DD124, 7, 7⟩
  , ⟨.f4, 0x5C4DD124, 0, 12⟩
  , ⟨.f4, 0x5C4DD124, 13, 8⟩
  , ⟨.f4, 0x5C4DD124, 5, 9⟩
  , ⟨.f4, 0x5C4DD124, 10, 11⟩
  , ⟨.f4, 0x5C4DD124, 14, 7⟩
  , ⟨.f4, 0x5C4DD124, 15, 7⟩
  , ⟨.f4, 0x5C4DD124, 8, 12⟩
  , ⟨.f4, 0x5C4DD124, 12, 7⟩
  , ⟨.f4, 0x5C4DD124, 4, 6⟩
  , ⟨.f4, 0x5C4DD124, 9, 15⟩
  , ⟨.f4, 0x5C4DD124, 1, 13⟩
  , ⟨.f4, 0x5C4DD124, 2, 11⟩ ]

/-- R505: the right line, steps 32..47. -/
def rmdRight2 : List RmdRow :=
  [ ⟨.f3, 0x6D703EF3, 15, 9⟩
  , ⟨.f3, 0x6D703EF3, 5, 7⟩
  , ⟨.f3, 0x6D703EF3, 1, 15⟩
  , ⟨.f3, 0x6D703EF3, 3, 11⟩
  , ⟨.f3, 0x6D703EF3, 7, 8⟩
  , ⟨.f3, 0x6D703EF3, 14, 6⟩
  , ⟨.f3, 0x6D703EF3, 6, 6⟩
  , ⟨.f3, 0x6D703EF3, 9, 14⟩
  , ⟨.f3, 0x6D703EF3, 11, 12⟩
  , ⟨.f3, 0x6D703EF3, 8, 13⟩
  , ⟨.f3, 0x6D703EF3, 12, 5⟩
  , ⟨.f3, 0x6D703EF3, 2, 14⟩
  , ⟨.f3, 0x6D703EF3, 10, 13⟩
  , ⟨.f3, 0x6D703EF3, 0, 13⟩
  , ⟨.f3, 0x6D703EF3, 4, 7⟩
  , ⟨.f3, 0x6D703EF3, 13, 5⟩ ]

/-- R505: the right line, steps 48..63. -/
def rmdRight3 : List RmdRow :=
  [ ⟨.f2, 0x7A6D76E9, 8, 15⟩
  , ⟨.f2, 0x7A6D76E9, 6, 5⟩
  , ⟨.f2, 0x7A6D76E9, 4, 8⟩
  , ⟨.f2, 0x7A6D76E9, 1, 11⟩
  , ⟨.f2, 0x7A6D76E9, 3, 14⟩
  , ⟨.f2, 0x7A6D76E9, 11, 14⟩
  , ⟨.f2, 0x7A6D76E9, 15, 6⟩
  , ⟨.f2, 0x7A6D76E9, 0, 14⟩
  , ⟨.f2, 0x7A6D76E9, 5, 6⟩
  , ⟨.f2, 0x7A6D76E9, 12, 9⟩
  , ⟨.f2, 0x7A6D76E9, 2, 12⟩
  , ⟨.f2, 0x7A6D76E9, 13, 9⟩
  , ⟨.f2, 0x7A6D76E9, 9, 12⟩
  , ⟨.f2, 0x7A6D76E9, 7, 5⟩
  , ⟨.f2, 0x7A6D76E9, 10, 15⟩
  , ⟨.f2, 0x7A6D76E9, 14, 8⟩ ]

/-- R505: the right line, steps 64..79. -/
def rmdRight4 : List RmdRow :=
  [ ⟨.f1, 0x00000000, 12, 8⟩
  , ⟨.f1, 0x00000000, 15, 5⟩
  , ⟨.f1, 0x00000000, 10, 12⟩
  , ⟨.f1, 0x00000000, 4, 9⟩
  , ⟨.f1, 0x00000000, 1, 12⟩
  , ⟨.f1, 0x00000000, 5, 5⟩
  , ⟨.f1, 0x00000000, 8, 14⟩
  , ⟨.f1, 0x00000000, 7, 6⟩
  , ⟨.f1, 0x00000000, 6, 8⟩
  , ⟨.f1, 0x00000000, 2, 13⟩
  , ⟨.f1, 0x00000000, 13, 6⟩
  , ⟨.f1, 0x00000000, 14, 5⟩
  , ⟨.f1, 0x00000000, 0, 15⟩
  , ⟨.f1, 0x00000000, 3, 13⟩
  , ⟨.f1, 0x00000000, 9, 11⟩
  , ⟨.f1, 0x00000000, 11, 11⟩ ]

/-- R505: the right line's eighty steps. -/
def rmdRight : List RmdRow := rmdRight0 ++ rmdRight1 ++ rmdRight2 ++ rmdRight3 ++ rmdRight4

/-- R501: the initial chaining constants IV(6). -/
def rmdIv : Words5 W32 := ⟨0x67452301, 0xEFCDAB89, 0x98BADCFE, 0x10325476, 0xC3D2E1F0⟩

/-- R502: the message words of a block. -/
def rmdWords (b : List Byte) : List W32 := unpackBlock32 unpack32le b

/-- R506: one step of a line, on its variables a, b, c, d, e; the left and the right line differ in their rows alone. -/
def rmdStep (x : List W32) (v : Words5 W32) (r : RmdRow) : Words5 W32 :=
  let t := rotl (v.w0 + rmdFn r.fn v.w1 v.w2 v.w3 + x.getD r.r 0 + r.k) r.s + v.w4
  ⟨v.w4, t, v.w1, rotl v.w2 10, v.w3⟩

/-- R506, R507: the variables of a line after its 80 steps; the two lines share none. -/
def rmdLine (rows : List RmdRow) (h : Words5 W32) (b : List Byte) : Words5 W32 := rows.foldl (rmdStep (rmdWords b)) h

/-- R507: `RMD160Compress(H, B)`, whose last step is the rotated three-term sum (90_conflicts.md C3). -/
def rmdCompress (h : Words5 W32) (b : List Byte) : Words5 W32 :=
  let l := rmdLine rmdLeft h b
  let r := rmdLine rmdRight h b
  ⟨h.w1 + l.w2 + r.w3, h.w2 + l.w3 + r.w4, h.w3 + l.w4 + r.w0, h.w4 + l.w0 + r.w1, h.w0 + l.w1 + r.w2⟩

end Sys2Proof.Machine
end

