-- ==== Sys2Proof/Machine/Sha1.lean ====
section
/-! DEFINITION. The SHA-1 compression engine (spec/43_sha1.md R350 to R358). -/

namespace Sys2Proof.Machine

/-- R351: the initial chaining constants IV(1). -/
def sha1Iv : Words5 W32 := ⟨0x67452301, 0xEFCDAB89, 0x98BADCFE, 0x10325476, 0xC3D2E1F0⟩

/-- R354: Ch. -/
def sha1Ch (b c d : W32) : W32 := (b &&& c) ||| (~~~b &&& d)

/-- R354: Parity. -/
def sha1Parity (b c d : W32) : W32 := b ^^^ c ^^^ d

/-- R354: Maj. -/
def sha1Maj (b c d : W32) : W32 := (b &&& c) ||| (b &&& d) ||| (c &&& d)

/-- R354: the round function f_t. -/
def sha1F (t : Nat) (b c d : W32) : W32 :=
  if t < 20 then sha1Ch b c d
  else if t < 40 then sha1Parity b c d
  else if t < 60 then sha1Maj b c d
  else sha1Parity b c d

/-- R354: the constant K_t. -/
def sha1K (t : Nat) : W32 :=
  if t < 20 then 0x5A827999
  else if t < 40 then 0x6ED9EBA1
  else if t < 60 then 0x8F1BBCDC
  else 0xCA62C1D6

/-- R353: the next schedule word, from the words so far, newest first: `w.getD (k - 1) 0` is `W[t−k]`. -/
def sha1Next (w : List W32) : W32 := rotl (w.getD 2 0 ^^^ w.getD 7 0 ^^^ w.getD 13 0 ^^^ w.getD 15 0) 1

/-- R353: `n` further schedule words, newest first. -/
def sha1Extend : Nat → List W32 → List W32
  | 0, w => w
  | n + 1, w => sha1Extend n (sha1Next w :: w)

/-- R352, R353: the message schedule W[0..79]. -/
def sha1Schedule (b : List Byte) : List W32 :=
  (sha1Extend 64 (unpackBlock32 unpack32be b).reverse).reverse

/-- R355: one step, on the working variables a, b, c, d, e; `r` is the step number with its schedule word. -/
def sha1Step (v : Words5 W32) (r : Nat × W32) : Words5 W32 :=
  let t := rotl v.w0 5 + sha1F r.1 v.w1 v.w2 v.w3 + v.w4 + sha1K r.1 + r.2
  ⟨t, v.w0, rotl v.w1 30, v.w2, v.w3⟩

/-- R358: the working variables after the 80 steps. -/
def sha1Rounds (h : Words5 W32) (b : List Byte) : Words5 W32 :=
  ((List.range 80).zip (sha1Schedule b)).foldl sha1Step h

/-- R358: `SHA1Compress(H, B)`. -/
def sha1Compress (h : Words5 W32) (b : List Byte) : Words5 W32 :=
  let v := sha1Rounds h b
  ⟨h.w0 + v.w0, h.w1 + v.w1, h.w2 + v.w2, h.w3 + v.w3, h.w4 + v.w4⟩

end Sys2Proof.Machine
end

