-- ==== Sys2Proof/Machine/Sha256.lean ====
section
/-! DEFINITION. The SHA-256/224 compression engine (spec/44_sha256_224.md R400 to R408). -/

namespace Sys2Proof.Machine

/-- R401: the initial chaining constants IV(2). -/
def sha256Iv : Words8 W32 :=
  ⟨0x6A09E667, 0xBB67AE85, 0x3C6EF372, 0xA54FF53A,
   0x510E527F, 0x9B05688C, 0x1F83D9AB, 0x5BE0CD19⟩

/-- R402: the initial chaining constants IV(3). -/
def sha224Iv : Words8 W32 :=
  ⟨0xC1059ED8, 0x367CD507, 0x3070DD17, 0xF70E5939,
   0xFFC00B31, 0x68581511, 0x64F98FA7, 0xBEFA4FA4⟩

/-- R403: Ch. -/
def sha256Ch (x y z : W32) : W32 := (x &&& y) ^^^ (~~~x &&& z)

/-- R403: Maj. -/
def sha256Maj (x y z : W32) : W32 := (x &&& y) ^^^ (x &&& z) ^^^ (y &&& z)

/-- R403: Σ0. -/
def sha256BigSigma0 (x : W32) : W32 := rotr x 2 ^^^ rotr x 13 ^^^ rotr x 22

/-- R403: Σ1. -/
def sha256BigSigma1 (x : W32) : W32 := rotr x 6 ^^^ rotr x 11 ^^^ rotr x 25

/-- R403: σ0. -/
def sha256SmallSigma0 (x : W32) : W32 := rotr x 7 ^^^ rotr x 18 ^^^ shr x 3

/-- R403: σ1. -/
def sha256SmallSigma1 (x : W32) : W32 := rotr x 17 ^^^ rotr x 19 ^^^ shr x 10

/-- R404: K[0..31]. -/
def sha256K1 : List W32 :=
  [ 0x428A2F98, 0x71374491, 0xB5C0FBCF, 0xE9B5DBA5, 0x3956C25B, 0x59F111F1, 0x923F82A4, 0xAB1C5ED5
  , 0xD807AA98, 0x12835B01, 0x243185BE, 0x550C7DC3, 0x72BE5D74, 0x80DEB1FE, 0x9BDC06A7, 0xC19BF174
  , 0xE49B69C1, 0xEFBE4786, 0x0FC19DC6, 0x240CA1CC, 0x2DE92C6F, 0x4A7484AA, 0x5CB0A9DC, 0x76F988DA
  , 0x983E5152, 0xA831C66D, 0xB00327C8, 0xBF597FC7, 0xC6E00BF3, 0xD5A79147, 0x06CA6351, 0x14292967 ]

/-- R404: K[32..63]. -/
def sha256K2 : List W32 :=
  [ 0x27B70A85, 0x2E1B2138, 0x4D2C6DFC, 0x53380D13, 0x650A7354, 0x766A0ABB, 0x81C2C92E, 0x92722C85
  , 0xA2BFE8A1, 0xA81A664B, 0xC24B8B70, 0xC76C51A3, 0xD192E819, 0xD6990624, 0xF40E3585, 0x106AA070
  , 0x19A4C116, 0x1E376C08, 0x2748774C, 0x34B0BCB5, 0x391C0CB3, 0x4ED8AA4A, 0x5B9CCA4F, 0x682E6FF3
  , 0x748F82EE, 0x78A5636F, 0x84C87814, 0x8CC70208, 0x90BEFFFA, 0xA4506CEB, 0xBEF9A3F7, 0xC67178F2 ]

/-- R404: the round constants K[0..63]. -/
def sha256K : List W32 := sha256K1 ++ sha256K2

/-- R405: the next schedule word, from the words so far, newest first: `w.getD (k - 1) 0` is `W[t−k]`. -/
def sha256Next (w : List W32) : W32 :=
  sha256SmallSigma1 (w.getD 1 0) + w.getD 6 0 + sha256SmallSigma0 (w.getD 14 0) + w.getD 15 0

/-- R405: `n` further schedule words, newest first. -/
def sha256Extend : Nat → List W32 → List W32
  | 0, w => w
  | n + 1, w => sha256Extend n (sha256Next w :: w)

/-- R405: the message schedule W[0..63]. -/
def sha256Schedule (b : List Byte) : List W32 :=
  (sha256Extend 48 (unpackBlock32 unpack32be b).reverse).reverse

/-- R406: one round, on the working variables a..h; `r` is the round constant with the schedule word. -/
def sha256Step (v : Words8 W32) (r : W32 × W32) : Words8 W32 :=
  let t1 := v.w7 + sha256BigSigma1 v.w4 + sha256Ch v.w4 v.w5 v.w6 + r.1 + r.2
  let t2 := sha256BigSigma0 v.w0 + sha256Maj v.w0 v.w1 v.w2
  ⟨t1 + t2, v.w0, v.w1, v.w2, v.w3 + t1, v.w4, v.w5, v.w6⟩

/-- R408: the working variables after the 64 rounds. -/
def sha256Rounds (h : Words8 W32) (b : List Byte) : Words8 W32 := (sha256K.zip (sha256Schedule b)).foldl sha256Step h

/-- R408: `SHA256Compress(H, B)`. -/
def sha256Compress (h : Words8 W32) (b : List Byte) : Words8 W32 :=
  let v := sha256Rounds h b
  ⟨h.w0 + v.w0, h.w1 + v.w1, h.w2 + v.w2, h.w3 + v.w3, h.w4 + v.w4, h.w5 + v.w5, h.w6 + v.w6, h.w7 + v.w7⟩

end Sys2Proof.Machine
end

