-- ==== Sys2Proof/Machine/Sha512.lean ====
section
/-! DEFINITION. The SHA-512/384 compression engine (spec/45_sha512_384.md R450 to R458). -/

namespace Sys2Proof.Machine

/-- R451: the initial chaining constants IV(4). -/
def sha512Iv : Words8 W64 :=
  ⟨0x6A09E667F3BCC908, 0xBB67AE8584CAA73B, 0x3C6EF372FE94F82B, 0xA54FF53A5F1D36F1,
   0x510E527FADE682D1, 0x9B05688C2B3E6C1F, 0x1F83D9ABFB41BD6B, 0x5BE0CD19137E2179⟩

/-- R452: the initial chaining constants IV(5). -/
def sha384Iv : Words8 W64 :=
  ⟨0xCBBB9D5DC1059ED8, 0x629A292A367CD507, 0x9159015A3070DD17, 0x152FECD8F70E5939,
   0x67332667FFC00B31, 0x8EB44A8768581511, 0xDB0C2E0D64F98FA7, 0x47B5481DBEFA4FA4⟩

/-- R453: Ch. -/
def sha512Ch (x y z : W64) : W64 := (x &&& y) ^^^ (~~~x &&& z)

/-- R453: Maj. -/
def sha512Maj (x y z : W64) : W64 := (x &&& y) ^^^ (x &&& z) ^^^ (y &&& z)

/-- R453: Σ0. -/
def sha512BigSigma0 (x : W64) : W64 := rotr x 28 ^^^ rotr x 34 ^^^ rotr x 39

/-- R453: Σ1. -/
def sha512BigSigma1 (x : W64) : W64 := rotr x 14 ^^^ rotr x 18 ^^^ rotr x 41

/-- R453: σ0. -/
def sha512SmallSigma0 (x : W64) : W64 := rotr x 1 ^^^ rotr x 8 ^^^ shr x 7

/-- R453: σ1. -/
def sha512SmallSigma1 (x : W64) : W64 := rotr x 19 ^^^ rotr x 61 ^^^ shr x 6

/-- R454: K[0..39]. -/
def sha512K1 : List W64 :=
  [ 0x428A2F98D728AE22, 0x7137449123EF65CD, 0xB5C0FBCFEC4D3B2F, 0xE9B5DBA58189DBBC
  , 0x3956C25BF348B538, 0x59F111F1B605D019, 0x923F82A4AF194F9B, 0xAB1C5ED5DA6D8118
  , 0xD807AA98A3030242, 0x12835B0145706FBE, 0x243185BE4EE4B28C, 0x550C7DC3D5FFB4E2
  , 0x72BE5D74F27B896F, 0x80DEB1FE3B1696B1, 0x9BDC06A725C71235, 0xC19BF174CF692694
  , 0xE49B69C19EF14AD2, 0xEFBE4786384F25E3, 0x0FC19DC68B8CD5B5, 0x240CA1CC77AC9C65
  , 0x2DE92C6F592B0275, 0x4A7484AA6EA6E483, 0x5CB0A9DCBD41FBD4, 0x76F988DA831153B5
  , 0x983E5152EE66DFAB, 0xA831C66D2DB43210, 0xB00327C898FB213F, 0xBF597FC7BEEF0EE4
  , 0xC6E00BF33DA88FC2, 0xD5A79147930AA725, 0x06CA6351E003826F, 0x142929670A0E6E70
  , 0x27B70A8546D22FFC, 0x2E1B21385C26C926, 0x4D2C6DFC5AC42AED, 0x53380D139D95B3DF
  , 0x650A73548BAF63DE, 0x766A0ABB3C77B2A8, 0x81C2C92E47EDAEE6, 0x92722C851482353B ]

/-- R454: K[40..79]. -/
def sha512K2 : List W64 :=
  [ 0xA2BFE8A14CF10364, 0xA81A664BBC423001, 0xC24B8B70D0F89791, 0xC76C51A30654BE30
  , 0xD192E819D6EF5218, 0xD69906245565A910, 0xF40E35855771202A, 0x106AA07032BBD1B8
  , 0x19A4C116B8D2D0C8, 0x1E376C085141AB53, 0x2748774CDF8EEB99, 0x34B0BCB5E19B48A8
  , 0x391C0CB3C5C95A63, 0x4ED8AA4AE3418ACB, 0x5B9CCA4F7763E373, 0x682E6FF3D6B2B8A3
  , 0x748F82EE5DEFB2FC, 0x78A5636F43172F60, 0x84C87814A1F0AB72, 0x8CC702081A6439EC
  , 0x90BEFFFA23631E28, 0xA4506CEBDE82BDE9, 0xBEF9A3F7B2C67915, 0xC67178F2E372532B
  , 0xCA273ECEEA26619C, 0xD186B8C721C0C207, 0xEADA7DD6CDE0EB1E, 0xF57D4F7FEE6ED178
  , 0x06F067AA72176FBA, 0x0A637DC5A2C898A6, 0x113F9804BEF90DAE, 0x1B710B35131C471B
  , 0x28DB77F523047D84, 0x32CAAB7B40C72493, 0x3C9EBE0A15C9BEBC, 0x431D67C49C100D4C
  , 0x4CC5D4BECB3E42B6, 0x597F299CFC657E2A, 0x5FCB6FAB3AD6FAEC, 0x6C44198C4A475817 ]

/-- R454: the round constants K[0..79]. -/
def sha512K : List W64 := sha512K1 ++ sha512K2

/-- R455: the next schedule word, from the words so far, newest first: `w.getD (k - 1) 0` is `W[t−k]`. -/
def sha512Next (w : List W64) : W64 :=
  sha512SmallSigma1 (w.getD 1 0) + w.getD 6 0 + sha512SmallSigma0 (w.getD 14 0) + w.getD 15 0

/-- R455: `n` further schedule words, newest first. -/
def sha512Extend : Nat → List W64 → List W64
  | 0, w => w
  | n + 1, w => sha512Extend n (sha512Next w :: w)

/-- R455: the message schedule W[0..79]. -/
def sha512Schedule (b : List Byte) : List W64 :=
  (sha512Extend 64 (unpackBlock64 unpack64be b).reverse).reverse

/-- R456: one round, on the working variables a..h; `r` is the round constant with the schedule word. -/
def sha512Step (v : Words8 W64) (r : W64 × W64) : Words8 W64 :=
  let t1 := v.w7 + sha512BigSigma1 v.w4 + sha512Ch v.w4 v.w5 v.w6 + r.1 + r.2
  let t2 := sha512BigSigma0 v.w0 + sha512Maj v.w0 v.w1 v.w2
  ⟨t1 + t2, v.w0, v.w1, v.w2, v.w3 + t1, v.w4, v.w5, v.w6⟩

/-- R458: the working variables after the 80 rounds. -/
def sha512Rounds (h : Words8 W64) (b : List Byte) : Words8 W64 := (sha512K.zip (sha512Schedule b)).foldl sha512Step h

/-- R458: `SHA512Compress(H, B)`. -/
def sha512Compress (h : Words8 W64) (b : List Byte) : Words8 W64 :=
  let v := sha512Rounds h b
  ⟨h.w0 + v.w0, h.w1 + v.w1, h.w2 + v.w2, h.w3 + v.w3, h.w4 + v.w4, h.w5 + v.w5, h.w6 + v.w6, h.w7 + v.w7⟩

end Sys2Proof.Machine
end

