-- ==== Sys2Proof/Machine/Engine.lean ====
section
/-! DEFINITION. The logic every compression engine shares (spec/41_engine.md R250 to R261, R269): dispatch, initial
constants, reset, update, padding, finalization and digest extraction. -/

namespace Sys2Proof.Machine

/-- R251: `compress(a, H, B)`, for the algorithm a of the chaining state. -/
def compress : Chain → List Byte → Chain
  | .md5 h, b => .md5 (md5Compress h b)
  | .sha1 h, b => .sha1 (sha1Compress h b)
  | .sha256 h, b => .sha256 (sha256Compress h b)
  | .sha224 h, b => .sha224 (sha256Compress h b)
  | .sha512 h, b => .sha512 (sha512Compress h b)
  | .sha384 h, b => .sha384 (sha512Compress h b)
  | .rmd160 h, b => .rmd160 (rmdCompress h b)

/-- R252: `IV(a)`. -/
def initialChain : Alg → Chain
  | .md5 => .md5 md5Iv
  | .sha1 => .sha1 sha1Iv
  | .sha256 => .sha256 sha256Iv
  | .sha224 => .sha224 sha224Iv
  | .sha512 => .sha512 sha512Iv
  | .sha384 => .sha384 sha384Iv
  | .rmd160 => .rmd160 rmdIv

/-- BS of an engine's algorithm (R250). -/
def Engine.bs (e : Engine) : Nat := e.alg.bs

/-- R253: `EngineReset(e)`; ALG is unchanged. -/
def engineReset (e : Engine) : Engine := { e with chain := initialChain e.alg, pbuf := [], count := 0 }

/-- R254: an engine of algorithm `a`, reset, in the place of `e`. -/
def engineConstruct (a : Alg) (e : Engine) : Engine := { e with chain := initialChain a, pbuf := [], count := 0 }

/-- R251, R59: one compression of the block `b`; the engine's scratch is zero after it. -/
def compressBlock (e : Engine) (b : List Byte) : Engine :=
  { e with chain := compress e.chain b, scratch := .cleared }

/-- R256 (a), R269: a pending buffer that holds a whole block is compressed and emptied. -/
def drainPending (e : Engine) : Engine :=
  if e.plen = e.bs then { chain := compress e.chain e.pbuf, pbuf := [], count := e.count, scratch := .cleared } else e

/-- R256 (a): the bytes `d` join the pending buffer, which is compressed and emptied if they fill it. -/
def fillPending (e : Engine) (d : List Byte) : Engine := drainPending { e with pbuf := e.pbuf ++ d }

/-- R256 (b), R260: `n` blocks of `d` are compressed, in order. -/
def compressBlocks : Nat → Engine → List Byte → Engine
  | 0, e, _ => e
  | n + 1, e, d => compressBlocks n (compressBlock e (d.take e.bs)) (d.drop e.bs)

/-- R256 (a): how many bytes of an input of `n` bytes the pending buffer takes. -/
def pendingTake (e : Engine) (n : Nat) : Nat := if 0 < e.plen then min (e.bs - e.plen) n else 0

/-- R256 (c): the bytes `d`, fewer than a block, join the pending buffer. -/
def bufferRest (e : Engine) (d : List Byte) : Engine := { e with pbuf := e.pbuf ++ d }

/-- R256: the counter grows by the `n` bytes of an input. -/
def countInput (e : Engine) (n : Nat) : Engine := { e with count := e.count + n }

/-- R256 (b), (c): the whole blocks of `d` are compressed, and what is left of it is buffered. -/
def absorbDirect (e : Engine) (d : List Byte) : Engine :=
  bufferRest (compressBlocks (d.length / e.bs) e d) (d.drop (d.length / e.bs * e.bs))

/-- R256: `EngineUpdate(e, D)`: step (a) takes the first bytes of the input, steps (b) and (c) the others. -/
def engineUpdate (e : Engine) (d : List Byte) : Engine :=
  absorbDirect (fillPending (countInput e d.length) (d.take (pendingTake e d.length)))
    (d.drop (pendingTake e d.length))

/-- R269: `feed(b)`, the bytewise form of an update. -/
def engineFeed (e : Engine) (b : Byte) : Engine :=
  drainPending { e with count := e.count + 1, pbuf := e.pbuf ++ [b] }

/-- R259: `lenfield(a, L)`, the bit length as LF bytes in the algorithm's order. -/
def lenField : Alg → Nat → List Byte
  | .md5, l => pack64le (BitVec.ofNat 64 l)
  | .sha1, l => pack64be (BitVec.ofNat 64 l)
  | .sha256, l => pack64be (BitVec.ofNat 64 l)
  | .sha224, l => pack64be (BitVec.ofNat 64 l)
  | .sha512, l => pack64be (BitVec.ofNat 64 (l >>> 64)) ++ pack64be (BitVec.ofNat 64 (l % 2 ^ 64))
  | .sha384, l => pack64be (BitVec.ofNat 64 (l >>> 64)) ++ pack64be (BitVec.ofNat 64 (l % 2 ^ 64))
  | .rmd160, l => pack64le (BitVec.ofNat 64 l)

/-- R258: z, the number of zero bytes of the padding, `(BS - LF - 1 - PLEN) mod BS`. -/
def padZeros (a : Alg) (plen : Nat) : Nat := (((a.bs : Int) - a.lf - 1 - plen) % a.bs).toNat

/-- R258: `Pad(e)`. -/
def padding (e : Engine) : List Byte :=
  [0x80#8] ++ List.replicate (padZeros e.alg e.plen) 0 ++ lenField e.alg (8 * e.count)

/-- R260: T, the pending bytes with their padding. -/
def finalBlocks (e : Engine) : List Byte := e.pbuf ++ padding e

/-- R261: `digestbytes(a, H)`. -/
def digestBytes (c : Chain) : List Byte := (packWords c).take c.alg.ds

/-- R260: the engine after the compressions of `EngineFinalize(e)`, before its reset. -/
def engineFinish (e : Engine) : Engine := compressBlocks ((finalBlocks e).length / e.bs) e (finalBlocks e)

/-- R260: the digest `EngineFinalize(e)` returns. -/
def engineDigest (e : Engine) : List Byte := digestBytes (engineFinish e).chain

/-- R260: the engine `EngineFinalize(e)` leaves. -/
def engineFinalize (e : Engine) : Engine := engineReset (engineFinish e)

/-- R263: an engine's part of `Zeroize()`. -/
def engineZeroize (e : Engine) : Engine := { e with chain := .zero, pbuf := [], count := 0 }

/-- R264, R552: `digest(a, D)`, the digest of the byte string `d` under the algorithm `a`. -/
def digest (a : Alg) (d : List Byte) : List Byte :=
  engineDigest (engineUpdate (engineConstruct a .zero) d)

end Sys2Proof.Machine
end

