-- ==== Sys2Proof/Machine/Operands.lean ====
section
/-! DEFINITION. The operands of the commands: the slice of the data operand DIN (spec/30_encoding.md R153,
spec/20_memory.md R101, spec/60_exceptions.md R655) and the output size in IMM (spec/30_encoding.md R152). The block reads
host bytes here and nowhere else (R100), and writes none (R102). -/

namespace Sys2Proof.Machine

/-- R153: `off = sext_32(OFF)`. -/
def Din.offset (d : Din) : Int := sext32 d.off

/-- R153: `len = sext_32(LEN)`. -/
def Din.length (d : Din) : Int := sext32 d.len

/-- R15, R101: `MemRead(BUF, i, n) = BUF[i..i+n)`. -/
def memRead (buf : List Byte) (i n : Nat) : List Byte := (buf.drop i).take n

/-- R101, R153: the slice `MemRead(BUF, off, len)` of a data operand. A command reads it after the slice check has passed
(R655), so the NULL buffer has no slice to read. -/
def Din.slice (d : Din) : List Byte := memRead (d.buf.getD []) d.offset.toNat d.length.toNat

/-- R655: BUF is NULL. -/
def Din.isNull (d : Din) : Bool := d.buf.isNone

/-- R655: `off < 0 or len < 0`. -/
def Din.isNegative (d : Din) : Bool := decide (d.offset < 0) || decide (d.length < 0)

/-- R655: `off + len > len(BUF)`, the sum exact. -/
def Din.isOutOfRange (d : Din) : Bool := decide (d.offset + d.length > (d.buf.getD []).length)

/-- R152, R157: H_INIT's `outbits = (IMM = 0) ? 8·DS(ALG) : IMM`. -/
def hmacOutBits (a : Alg) (imm : BitVec 16) : Nat := if imm = 0#16 then a.naturalBits else imm.toNat

end Sys2Proof.Machine
end

