-- ==== Sys2Proof/Machine/Flags.lean ====
section
/-! DEFINITION. The block has no flags and no condition codes (spec/10_state.md R53). What a command reports in their place
is a status code (spec/60_exceptions.md R650), computed by checks in a fixed order (R651 to R657). Each check is a function
of the state that names the code it raises, or none. -/

namespace Sys2Proof.Machine

/-- R650: the 4-bit value of a status code. -/
def Status.code : Status → BitVec 4
  | .ok => 0
  | .illegal => 1
  | .released => 2
  | .kind => 3
  | .null => 4
  | .negative => 5
  | .range => 6
  | .config => 7
  | .length => 8

/-- R50: the value of SLOT as RDREG reads it. -/
def Slot.code : Slot → BitVec 2
  | .empty => 0
  | .engine => 1
  | .hmac => 2

/-- R651: a check gives the code it raises, or none where it passes. -/
abbrev Check := State → Option Status

/-- R654: the command needs an instance and SLOT = EMPTY. -/
def checkReleased : Check := fun s => if s.slot = .empty then some .released else none

/-- R654: an engine command while SLOT = HMAC. -/
def checkEngineKind : Check := fun s => if s.slot = .hmac then some .kind else none

/-- R654: an HMAC command while SLOT = ENGINE. -/
def checkHmacKind : Check := fun s => if s.slot = .engine then some .kind else none

/-- R655: ERR_NULL. -/
def checkNull : Check := fun s => if s.din.isNull then some .null else none

/-- R655: ERR_NEGATIVE. -/
def checkNegative : Check := fun s => if s.din.isNegative then some .negative else none

/-- R655: ERR_RANGE. -/
def checkRange : Check := fun s => if s.din.isOutOfRange then some .range else none

/-- R656: ERR_CONFIG, an output size that is no multiple of 8 or is larger than the natural size. -/
def checkOutBits (a : Alg) (imm : BitVec 16) : Check := fun _ =>
  if hmacOutBits a imm % 8 ≠ 0 ∨ hmacOutBits a imm > a.naturalBits then some .config else none

/-- R656: ERR_CONFIG, a key of more than KEY_CAPACITY bytes. -/
def checkKeySize : Check := fun s => if s.din.length > s.keyCapacity then some .config else none

/-- R657: ERR_LENGTH, an update that would make COUNT exceed COUNT_MAX. -/
def checkLength : Check := fun s =>
  if (s.engine.count : Int) + s.din.length > s.engine.alg.countMax then some .length else none

/-- R651, R655: the slice checks, in their order. -/
def sliceChecks : List Check := [checkNull, checkNegative, checkRange]

/-- R651: the checks are evaluated in order and the first that fails decides the status. -/
def firstFailure (checks : List Check) (s : State) : Option Status := checks.findSome? fun c => c s

/-- R64, R652: first-error capture, `if ERRSTAT = 0: ERRSTAT <- code`. -/
def captureError (errstat code : Status) : Status := if errstat = .ok then code else errstat

end Sys2Proof.Machine
end

