-- ==== Sys2Proof/Machine/Ops.lean ====
section
/-! DEFINITION. The operations every command is built from: the named updates of the state, completing with a result
(spec/30_encoding.md R154), failing (spec/60_exceptions.md R652: the block's one error path; it has no trap to take and none
to return from, R659, R660), running the checks in order (R651), clearing an instance (spec/41_engine.md R263), and taking a
command from the port (spec/20_memory.md R106, R108). -/

namespace Sys2Proof.Machine

/-- The type every meaning answers in. -/
abbrev Answer := Host.Outcome State Fault Refusal

/-- R154: the command returns the result `r`. -/
def State.setResult (s : State) (r : Result) : State := { s with result := some r }

/-- R64: the write of ERRSTAT. -/
def State.setErrstat (s : State) (c : Status) : State := { s with errstat := c }

/-- R50: the write of SLOT. -/
def State.setSlot (s : State) (k : Slot) : State := { s with slot := k }

/-- R54, R60: the write of the engine, or of the wrapped engine. -/
def State.setEngine (s : State) (e : Engine) : State := { s with engine := e }

/-- R61, R62: the write of KEY and of the pads derived from it. -/
def State.setKey (s : State) (key ipad opad : List Byte) : State := { s with key := key, ipad := ipad, opad := opad }

/-- R63: the write of OUTBITS. -/
def State.setOutBits (s : State) (n : Nat) : State := { s with outBits := n }

/-- R150: the command port presents the operand `d`, and the commands `rest` remain to be executed. -/
def State.setPort (s : State) (d : Din) (rest : List Command) : State := { s with din := d, port := rest }

/-- R154, R668: the command completes with OK. -/
def complete (rval : W32) (dout : List Byte) (s : State) : Answer := .next (s.setResult ⟨.ok, rval, dout⟩)

/-- R652: the state after `Fail(code)`. -/
def failed (code : Status) (s : State) : State :=
  (s.setErrstat (captureError s.errstat code)).setResult ⟨code, 0, []⟩

/-- R652: `Fail(code)`. The block's state is otherwise as before the command, and the next command runs normally (R660). -/
def fail (code : Status) (s : State) : Answer := .next (failed code s)

/-- R651: a command runs its checks in order, fails with the first that fails, and has its effect if none does. -/
def runChecked (checks : List Check) (effect : State → Answer) (s : State) : Answer :=
  match firstFailure checks s with
  | some code => fail code s
  | none => effect s

/-- R653: a command word that is illegal. -/
def illegalCommand (s : State) : Answer := fail .illegal s

/-- R263: `Zeroize()`. An HMAC instance's pads, key and output size are cleared too. -/
def zeroize (s : State) : State :=
  let s' := s.setEngine (engineZeroize s.engine)
  if s.slot = .hmac then (s'.setKey [] padZero padZero).setOutBits 0 else s'

/-- R254, R553: an INIT clears the instance it replaces. -/
def discardInstance (s : State) : State := if s.slot ≠ .empty then zeroize s else s

/-- R263, R557: a release clears the instance and empties the slot. -/
def releaseInstance (s : State) : State := (zeroize s).setSlot .empty

/-- R150, R161: the command `c` is executed: its operand is presented, its word is decoded, and `run` gives a command of
the table its effect; any other word is illegal. -/
def execCommand (run : Instr → State → Answer) (c : Command) (rest : List Command) (s : State) : Answer :=
  match decode c.cw with
  | .ok i => run i (s.setPort c.din rest)
  | .error _ => illegalCommand (s.setPort c.din rest)

/-- R108: the host issues the command `c`: it is executed after every command issued before it. -/
def State.issue (s : State) (c : Command) : State := { s with port := s.port ++ [c] }

/-- R700: power-on reset, the block's only reset input. It is the host's, no command: every element takes its reset value
(R69), and nothing that was issued before it is executed after it. KEY_CAPACITY is the implementation's and stays (R11). -/
def State.powerOnReset (s : State) : State := { State.reset with keyCapacity := s.keyCapacity }

/-- The command word of an instruction of `nbits` bits whose bits are `w` (bits above `nbits` are 0). -/
def tableCommandWord (nbits w : Nat) : W32 := BitVec.ofNat 32 (w % 2 ^ nbits)

/-- The command `c` stands at the head of the port, before every command that waits there. -/
def State.issueFirst (s : State) (c : Command) : State := { s with port := c :: s.port }

end Sys2Proof.Machine
end

