-- ==== Sys2Proof/Machine/EngineCommands.lean ====
section
/-! DEFINITION. The five engine commands (spec/41_engine.md R254, R255, R257, R262, R263). -/

namespace Sys2Proof.Machine

/-- R254: the state E_INIT constructs, an engine of algorithm `a`. -/
def constructEngine (a : Alg) (s : State) : State :=
  let s' := discardInstance s
  (s'.setSlot .engine).setEngine (engineConstruct a s'.engine)

/-- R254: E_INIT. It needs no instance. -/
def execEInit (alg : BitVec 4) (s : State) : Answer :=
  match Alg.ofCode? alg with
  | none => illegalCommand s
  | some a => complete 0 [] (constructEngine a s)

/-- R651: the instance checks of an engine command. -/
def engineChecks : List Check := [checkReleased, checkEngineKind]

/-- R255: E_RESET. -/
def execEReset (s : State) : Answer :=
  runChecked engineChecks (fun s => complete 0 [] (s.setEngine (engineReset s.engine))) s

/-- R257: E_UPDATE. -/
def execEUpdate (s : State) : Answer :=
  runChecked (engineChecks ++ sliceChecks ++ [checkLength])
    (fun s => complete 0 [] (s.setEngine (engineUpdate s.engine s.din.slice))) s

/-- R262: E_FINALIZE. -/
def execEFinalize (s : State) : Answer :=
  runChecked engineChecks
    (fun s => complete 0 (engineDigest s.engine) (s.setEngine (engineFinalize s.engine))) s

/-- R263: E_RELEASE. -/
def execERelease (s : State) : Answer :=
  runChecked engineChecks (fun s => complete 0 [] (releaseInstance s)) s

end Sys2Proof.Machine
end

