-- ==== Sys2Proof/Machine/Hmac.lean ====
section
/-! DEFINITION. The HMAC state machine's internal functions (spec/47_hmac.md R550 to R552, R556, R559). The HMAC instance's
state is IPAD, OPAD, KEY and OUTBITS of State, and its wrapped engine E is `engine` (R60). K0, inner and full are values
inside one command: no state holds them before it or after it (R551, R556, R708). -/

namespace Sys2Proof.Machine

/-- R552, R561 (a): `EffectiveKey(E, K)`, K itself up to a block's length and, where it is longer, its digest. -/
def effectiveKey (a : Alg) (k : List Byte) : List Byte := if k.length ≤ a.bs then k else digest a k

/-- R551: the effective key zero-extended to a block. -/
def paddedKey (a : Alg) (k : List Byte) : List Byte :=
  effectiveKey a k ++ List.replicate (a.bs - (effectiveKey a k).length) 0

/-- R61, R551: IPAD[i] = 0x36 ⊕ K0[i]. -/
def innerPad (a : Alg) (k : List Byte) : List Byte := (paddedKey a k).map fun b => 0x36#8 ^^^ b

/-- R61, R551: OPAD[i] = 0x5C ⊕ K0[i]. -/
def outerPad (a : Alg) (k : List Byte) : List Byte := (paddedKey a k).map fun b => 0x5C#8 ^^^ b

/-- R551, R561 (c): `HmacSetKey(h, K)`: KEY keeps K verbatim, the pads are derived from it, and the reset engine absorbs
IPAD. H_INIT and H_SETKEY share it. -/
def hmacSetKey (s : State) (k : List Byte) : State :=
  let a := s.engine.alg
  (s.setKey k (innerPad a k) (outerPad a k)).setEngine (engineUpdate (engineReset s.engine) (innerPad a k))

/-- R556: the full-size tag: the outer digest over OPAD and the inner digest. -/
def hmacFull (s : State) : List Byte :=
  let inner := engineDigest s.engine
  let e := engineReset (engineFinalize s.engine)
  engineDigest (engineUpdate (engineUpdate e s.opad) inner)

/-- R556, R559, R561 (b): the tag, the first OUTBITS/8 bytes of the full-size tag. -/
def hmacTag (s : State) : List Byte := (hmacFull s).take (s.outBits / 8)

/-- R556: the wrapped engine H_FINALIZE leaves: finalized, reset, used for the outer hash, finalized again, and re-primed
with IPAD. -/
def hmacReprime (s : State) : Engine :=
  let inner := engineDigest s.engine
  let e := engineReset (engineFinalize s.engine)
  engineUpdate (engineFinalize (engineUpdate (engineUpdate e s.opad) inner)) s.ipad

/-- R550: the HMAC of the message `m` under the key `k`, the formula of RFC 2104. -/
def hmacFormula (a : Alg) (k m : List Byte) : List Byte :=
  digest a (outerPad a k ++ digest a (innerPad a k ++ m))

end Sys2Proof.Machine
end

