-- ==== Sys2Proof/Machine/HmacCommands.lean ====
section
/-! DEFINITION. The six HMAC commands (spec/47_hmac.md R553 to R558). -/

namespace Sys2Proof.Machine

/-- R553: the state H_INIT constructs, an HMAC instance of algorithm `a` and output size `n` under the key `k`. -/
def constructHmac (a : Alg) (n : Nat) (k : List Byte) (s : State) : State :=
  let s' := discardInstance s
  hmacSetKey (((s'.setSlot .hmac).setEngine (engineConstruct a s'.engine)).setOutBits n) k

/-- R553: H_INIT. It needs no instance. -/
def execHInit (alg : BitVec 4) (imm : BitVec 16) (s : State) : Answer :=
  match Alg.ofCode? alg with
  | none => illegalCommand s
  | some a =>
    runChecked (sliceChecks ++ [checkOutBits a imm, checkKeySize])
      (fun s => complete 0 [] (constructHmac a (hmacOutBits a imm) s.din.slice s)) s

/-- R651: the instance checks of an HMAC command. -/
def hmacChecks : List Check := [checkReleased, checkHmacKind]

/-- R554, R561 (c): H_SETKEY. ALG and OUTBITS are unchanged. -/
def execHSetkey (s : State) : Answer :=
  runChecked (hmacChecks ++ sliceChecks ++ [checkKeySize])
    (fun s => complete 0 [] (hmacSetKey s s.din.slice)) s

/-- R555, R561 (d): H_UPDATE, the same `engineUpdate` on E as E_UPDATE's. -/
def execHUpdate (s : State) : Answer :=
  runChecked (hmacChecks ++ sliceChecks ++ [checkLength])
    (fun s => complete 0 [] (s.setEngine (engineUpdate s.engine s.din.slice))) s

/-- R556: H_FINALIZE. -/
def execHFinalize (s : State) : Answer :=
  runChecked hmacChecks (fun s => complete 0 (hmacTag s) (s.setEngine (hmacReprime s))) s

/-- R557: H_RELEASE. -/
def execHRelease (s : State) : Answer :=
  runChecked hmacChecks (fun s => complete 0 [] (releaseInstance s)) s

/-- R558: H_GETKEY: RVAL is KLEN and DOUT the key as the host supplied it. -/
def execHGetkey (s : State) : Answer :=
  runChecked hmacChecks (fun s => complete (BitVec.ofNat 32 s.key.length) s.key s) s

end Sys2Proof.Machine
end

