-- ==== Sys2Proof/Machine/QueryCommands.lean ====
section
/-! DEFINITION. The register read command (spec/48_query.md R600, R601). -/

namespace Sys2Proof.Machine

/-- R601: OUTPUT_SIZE, OUTBITS for an HMAC instance and the natural size for an engine. -/
def outputSize (s : State) : Nat := if s.slot = .hmac then s.outBits else s.engine.alg.naturalBits

/-- R601: `regval(r)`, each field zero-extended to 32 bits. -/
def regVal (r : Reg) (s : State) : W32 :=
  match r with
  | .blockSize => BitVec.ofNat 32 s.engine.alg.bs
  | .hashSize => BitVec.ofNat 32 s.engine.alg.naturalBits
  | .outputSize => BitVec.ofNat 32 (outputSize s)
  | .alg => s.engine.alg.code.zeroExtend 32
  | .errstat => s.errstat.code.zeroExtend 32
  | .slot => s.slot.code.zeroExtend 32

/-- R600: registers 0x0..0x3 need an instance. -/
def regChecks (r : Reg) : List Check := if r.needsInstance then [checkReleased] else []

/-- R600: RDREG. It changes no state but its result. -/
def execRdreg (reg : BitVec 16) (s : State) : Answer :=
  match Reg.ofNumber? reg with
  | none => illegalCommand s
  | some r => runChecked (regChecks r) (fun s => complete (regVal r s) [] s) s

end Sys2Proof.Machine
end

