-- ==== Sys2Proof/Machine/Dispatch.lean ====
section
/-! DEFINITION. The meaning of each command (spec/30_encoding.md R155), one arm per row of spec/opcode_table.json. -/

namespace Sys2Proof.Machine

def exec (i : Instr) (s : State) : Host.Outcome State Fault Refusal :=
  match i with
  | .eInit alg => Sys2Proof.Machine.execEInit alg s
  | .eReset => Sys2Proof.Machine.execEReset s
  | .eUpdate => Sys2Proof.Machine.execEUpdate s
  | .eFinalize => Sys2Proof.Machine.execEFinalize s
  | .eRelease => Sys2Proof.Machine.execERelease s
  | .hInit alg imm => Sys2Proof.Machine.execHInit alg imm s
  | .hSetkey => Sys2Proof.Machine.execHSetkey s
  | .hUpdate => Sys2Proof.Machine.execHUpdate s
  | .hFinalize => Sys2Proof.Machine.execHFinalize s
  | .hRelease => Sys2Proof.Machine.execHRelease s
  | .hGetkey => Sys2Proof.Machine.execHGetkey s
  | .rdreg reg => Sys2Proof.Machine.execRdreg reg s

end Sys2Proof.Machine
end

