-- ==== Sys2Proof/Machine/Step.lean ====
section
/-! DEFINITION. One step of the block: the next command of the port is executed, whole (spec/20_memory.md R106, R108). The
block has no program counter and fetches nothing (spec/10_state.md R52, R111): its commands come from the host. With no
command issued it holds its state (spec/60_exceptions.md R667). -/

namespace Sys2Proof.Machine

/-- R106, R108, R667: the oldest command of the port is executed; with none, the state is held. -/
def step (s : State) : Host.Outcome State Fault Refusal :=
  match s.port with
  | [] => .next s
  | c :: rest => execCommand exec c rest s

/-- The command word `w` of `nbits` bits stands at the head of the command port, with the operand that stands there. -/
def State.withFetchWord (s : State) (nbits w : Nat) : State := s.issueFirst ⟨tableCommandWord nbits w, s.din⟩

end Sys2Proof.Machine
end

