-- ==== Sys2Proof/Machine/Assembler.lean ====
section
/-! DEFINITION. The assembler lines and the pseudo-instructions (spec/30_encoding.md R162, R163): the commands a line stands
for, how the host issues them, and the text of a line. A pseudo-instruction is a sequence of the host's: the block itself
sees its commands alone. -/

namespace Sys2Proof.Machine

/-- R162: how a line names a host byte string. -/
inductive AsmBuf where
  /-- A quoted ASCII string. -/
  | ascii (s : List Char)
  /-- A hex string. -/
  | hex (b : List Byte)
  /-- `repeat(0xNN, n)`. -/
  | fill (b : Byte) (n : Nat)
  /-- `NULL`. -/
  | null
deriving DecidableEq, Repr

/-- R162: the byte string a line names. -/
def AsmBuf.bytes? : AsmBuf → Option (List Byte)
  | .ascii s => some (s.map fun c => BitVec.ofNat 8 c.toNat)
  | .hex b => some b
  | .fill b n => some (List.replicate n b)
  | .null => none

/-- R162, R163: the lines: the twelve commands, then the five pseudo-instructions. -/
inductive AsmLine where
  | eInit (a : Alg)
  | eReset
  | eUpdate (b : AsmBuf) (off len : Int)
  | eFinalize
  | eRelease
  | hInit (a : Alg) (outBits : Nat) (b : AsmBuf) (off len : Int)
  | hSetkey (b : AsmBuf) (off len : Int)
  | hUpdate (b : AsmBuf) (off len : Int)
  | hFinalize
  | hRelease
  | hGetkey
  | rdreg (r : Reg)
  | eHash (a : Alg) (b : AsmBuf) (off len : Int)
  | eCompute (b : AsmBuf) (off len : Int)
  | hCompute (b : AsmBuf) (off len : Int)
  | eUpdateAll (b : AsmBuf)
  | hUpdateAll (b : AsmBuf)
deriving DecidableEq, Repr

/-- R153, R162: the data operand of a line. -/
def asmDin (b : AsmBuf) (off len : Int) : Din := ⟨b.bytes?, BitVec.ofInt 32 off, BitVec.ofInt 32 len⟩

/-- R163: the operand `<buf>, 0, len(<buf>)`. DESIGN CHOICE (log entry 22), where the rules give no `len(<buf>)`: for NULL
LEN is 0 (the command fails with ERR_NULL for any LEN), and for a text buffer longer than R101's 2^31 − 1 bytes LEN is its
length modulo 2^32. -/
def asmDinAll (b : AsmBuf) : Din := asmDin b 0 ((b.bytes?.getD []).length : Int)

/-- R162: the words of the table, `base | alg<<20` and `base | alg<<20 | outbits`. -/
def asmWord (base : W32) (alg : BitVec 4) (low : W32) : W32 := base ||| (alg.zeroExtend 32 <<< 20) ||| low

/-- R162, R163: the commands a line stands for, in the order they are issued. -/
def AsmLine.commands : AsmLine → List Command
  | .eInit a => [⟨asmWord 0x01000000 a.code 0, .absent⟩]
  | .eReset => [⟨0x02000000, .absent⟩]
  | .eUpdate b off len => [⟨0x03000000, asmDin b off len⟩]
  | .eFinalize => [⟨0x04000000, .absent⟩]
  | .eRelease => [⟨0x05000000, .absent⟩]
  | .hInit a n b off len => [⟨asmWord 0x11000000 a.code (BitVec.ofNat 32 n), asmDin b off len⟩]
  | .hSetkey b off len => [⟨0x12000000, asmDin b off len⟩]
  | .hUpdate b off len => [⟨0x13000000, asmDin b off len⟩]
  | .hFinalize => [⟨0x14000000, .absent⟩]
  | .hRelease => [⟨0x15000000, .absent⟩]
  | .hGetkey => [⟨0x16000000, .absent⟩]
  | .rdreg r => [⟨0x21000000 ||| r.number.zeroExtend 32, .absent⟩]
  | .eHash a b off len =>
    [⟨asmWord 0x01000000 a.code 0, .absent⟩, ⟨0x03000000, asmDin b off len⟩, ⟨0x04000000, .absent⟩]
  | .eCompute b off len => [⟨0x03000000, asmDin b off len⟩, ⟨0x04000000, .absent⟩]
  | .hCompute b off len => [⟨0x13000000, asmDin b off len⟩, ⟨0x14000000, .absent⟩]
  | .eUpdateAll b => [⟨0x03000000, asmDinAll b⟩]
  | .hUpdateAll b => [⟨0x13000000, asmDinAll b⟩]

/-- The last command returned OK. -/
def State.lastOk (s : State) : Bool :=
  match s.result with
  | some r => r.status == .ok
  | none => true

/-- R163: the commands are issued in order, each before whatever waits at the port, and the sequence stops at the first
one with STATUS ≠ 0, whose result stands. -/
def runCommands : List Command → State → Answer
  | [], s => .next s
  | c :: cs, s =>
    match step (s.issueFirst c) with
    | .next t => if t.lastOk then runCommands cs t else .next t
    | .fault r => .fault r
    | .refused r => .refused r

/-- R163: the host runs a line. -/
def runLine (l : AsmLine) (s : State) : Answer := runCommands l.commands s

/-! The text of a line (R162). -/

/-- A line's operands are parted by commas outside quotes and parentheses: `quoted` says that a quoted string is open,
`depth` how many parentheses are. `cur` is the operand so far, reversed. -/
def splitOperands : List Char → Bool → Nat → List Char → List (List Char)
  | [], _, _, cur => [cur.reverse]
  | c :: cs, quoted, depth, cur =>
    if c = Char.ofNat 34 then splitOperands cs (!quoted) depth (c :: cur)
    else if quoted then splitOperands cs quoted depth (c :: cur)
    else if c = '(' then splitOperands cs quoted (depth + 1) (c :: cur)
    else if c = ')' then splitOperands cs quoted (depth - 1) (c :: cur)
    else if c = ',' ∧ depth = 0 then cur.reverse :: splitOperands cs quoted depth []
    else splitOperands cs quoted depth (c :: cur)

/-- The text without the blanks around it. -/
def trimBlanks (s : List Char) : List Char :=
  ((s.dropWhile (· == ' ')).reverse.dropWhile (· == ' ')).reverse

/-- The value of a decimal digit. -/
def decDigit? (c : Char) : Option Nat := if '0' ≤ c ∧ c ≤ '9' then some (c.toNat - '0'.toNat) else none

/-- The value of a hexadecimal digit. -/
def hexDigit? (c : Char) : Option Nat :=
  if '0' ≤ c ∧ c ≤ '9' then some (c.toNat - '0'.toNat)
  else if 'a' ≤ c ∧ c ≤ 'f' then some (c.toNat - 'a'.toNat + 10)
  else if 'A' ≤ c ∧ c ≤ 'F' then some (c.toNat - 'A'.toNat + 10)
  else none

/-- R162: a decimal integer, the digits after `acc`. -/
def decFrom? : List Char → Nat → Option Nat
  | [], acc => some acc
  | c :: cs, acc => (decDigit? c).bind fun d => decFrom? cs (10 * acc + d)

/-- R162: a decimal integer. -/
def parseNat? (s : List Char) : Option Nat := if s = [] then none else decFrom? s 0

/-- R153, R162: a decimal integer, possibly negative, that OFF or LEN can hold. -/
def parseInt? (s : List Char) : Option Int :=
  match s with
  | '-' :: ds => (parseNat? ds).bind fun n => if n ≤ 2 ^ 31 then some (-(n : Int)) else none
  | ds => (parseNat? ds).bind fun n => if n < 2 ^ 31 then some (n : Int) else none

/-- R162: the bytes of a hex string, two digits a byte. -/
def parseHex? : List Char → Option (List Byte)
  | [] => some []
  | [_] => none
  | a :: b :: cs =>
    (hexDigit? a).bind fun x => (hexDigit? b).bind fun y =>
      (parseHex? cs).map fun t => BitVec.ofNat 8 (16 * x + y) :: t

/-- The text between two double quotes that open and close it. -/
def unquote? (s : List Char) : Option (List Char) :=
  match s with
  | q :: r =>
    if q = Char.ofNat 34 ∧ r.getLast? = some (Char.ofNat 34) ∧ ¬ r.dropLast.contains (Char.ofNat 34) then some r.dropLast
    else none
  | [] => none

/-- R162: `<buf>`. DESIGN CHOICE (log entry 22): a text that names more than R101's 2^31 − 1 bytes is a `<buf>`, and the
line a line. -/
def parseBuf? (s : List Char) : Option AsmBuf :=
  if s = "NULL".toList then some .null
  else if s.take 9 = "repeat(0x".toList ∧ s.getLast? = some ')' then
    match splitOperands (s.drop 9).dropLast false 0 [] with
    | [b, n] =>
      match parseHex? b with
      | some [x] => (parseNat? (trimBlanks n)).map (AsmBuf.fill x)
      | _ => none
    | _ => none
  else
    match s with
    | 'x' :: r => ((unquote? r).bind parseHex?).map .hex
    | r => (unquote? r).map .ascii

/-- R162: `<alg>`. -/
def parseAlg? (s : List Char) : Option Alg :=
  if s = "MD5".toList then some .md5
  else if s = "SHA1".toList then some .sha1
  else if s = "SHA256".toList then some .sha256
  else if s = "SHA224".toList then some .sha224
  else if s = "SHA512".toList then some .sha512
  else if s = "SHA384".toList then some .sha384
  else if s = "RIPEMD160".toList then some .rmd160
  else none

/-- R162: `<reg>`. -/
def parseReg? (s : List Char) : Option Reg :=
  if s = "BLOCK_SIZE".toList then some .blockSize
  else if s = "HASH_SIZE".toList then some .hashSize
  else if s = "OUTPUT_SIZE".toList then some .outputSize
  else if s = "ALG".toList then some .alg
  else if s = "ERRSTAT".toList then some .errstat
  else if s = "SLOT".toList then some .slot
  else none

/-- R162: the output size operand, an empty one meaning the natural size; IMM holds 16 bits. -/
def parseOutBits? (s : List Char) : Option Nat :=
  if s = [] then some 0 else (parseNat? s).bind fun n => if n < 2 ^ 16 then some n else none

/-- R162: `<buf>, <off>, <len>`. -/
def parseSlice? (f : AsmBuf → Int → Int → AsmLine) : List (List Char) → Option AsmLine
  | [b, o, l] => (parseBuf? b).bind fun b => (parseInt? o).bind fun o => (parseInt? l).map fun l => f b o l
  | _ => none

/-- R162: `<alg>, <outbits>, <buf>, <off>, <len>`, the output size possibly omitted. -/
def parseHInit? : List (List Char) → Option AsmLine
  | [a, b, o, l] => (parseAlg? a).bind fun a => parseSlice? (.hInit a 0) [b, o, l]
  | [a, n, b, o, l] =>
    (parseAlg? a).bind fun a => (parseOutBits? n).bind fun n => parseSlice? (.hInit a n) [b, o, l]
  | _ => none

/-- R163: `<alg>, <buf>, <off>, <len>`. -/
def parseEHash? : List (List Char) → Option AsmLine
  | [a, b, o, l] => (parseAlg? a).bind fun a => parseSlice? (.eHash a) [b, o, l]
  | _ => none

/-- A line without operands. -/
def parseBare? (l : AsmLine) (ops : List (List Char)) : Option AsmLine := if ops = [[]] then some l else none

/-- A line with one operand. -/
def parseOne? {α : Type} (p : List Char → Option α) (f : α → AsmLine) : List (List Char) → Option AsmLine
  | [x] => (p x).map f
  | _ => none

/-- R162, R163: the line a mnemonic and its operands name. -/
def parseOps? (m : List Char) (ops : List (List Char)) : Option AsmLine :=
  if m = "E.INIT".toList then parseOne? parseAlg? .eInit ops
  else if m = "E.RESET".toList then parseBare? .eReset ops
  else if m = "E.UPDATE".toList then parseSlice? .eUpdate ops
  else if m = "E.FINALIZE".toList then parseBare? .eFinalize ops
  else if m = "E.RELEASE".toList then parseBare? .eRelease ops
  else if m = "H.INIT".toList then parseHInit? ops
  else if m = "H.SETKEY".toList then parseSlice? .hSetkey ops
  else if m = "H.UPDATE".toList then parseSlice? .hUpdate ops
  else if m = "H.FINALIZE".toList then parseBare? .hFinalize ops
  else if m = "H.RELEASE".toList then parseBare? .hRelease ops
  else if m = "H.GETKEY".toList then parseBare? .hGetkey ops
  else if m = "RDREG".toList then parseOne? parseReg? .rdreg ops
  else if m = "E.HASH".toList then parseEHash? ops
  else if m = "E.COMPUTE".toList then parseSlice? .eCompute ops
  else if m = "H.COMPUTE".toList then parseSlice? .hCompute ops
  else if m = "E.UPDATEALL".toList then parseOne? parseBuf? .eUpdateAll ops
  else if m = "H.UPDATEALL".toList then parseOne? parseBuf? .hUpdateAll ops
  else none

/-- R162: the text of one line. -/
def parseLine? (s : List Char) : Option AsmLine :=
  let s := trimBlanks s
  parseOps? (s.takeWhile (· != ' ')) ((splitOperands (s.dropWhile (· != ' ')) false 0 []).map trimBlanks)

end Sys2Proof.Machine
end

