-- ==== Sys2Proof/Machine/System.lean ====
section
/-! DEFINITION. A system of NINST blocks (spec/00_scope.md R11; spec/10_state.md R68; spec/60_exceptions.md R665): a list of
independent states, NINST being its length. No state is shared, no block sees another, and each has a command stream of its
own. -/

namespace Sys2Proof.Machine

/-- R68, R665: the system after power-on reset. -/
def systemReset (ninst : Nat) : List State := List.replicate ninst State.reset

/-- R665: the host of block `k` issues it the command `c`. -/
def systemIssue (k : Nat) (c : Command) (sys : List State) : List State := sys.modify k fun s => s.issue c

/-- R665, R700: block `k` is reset; every other block holds its state. -/
def systemPowerOnReset (k : Nat) (sys : List State) : List State := sys.modify k State.powerOnReset

/-- R68, R108: block `k` takes one step; no other block is touched. -/
def systemStep (k : Nat) (sys : List State) : Host.Outcome (List State) Fault Refusal :=
  match sys[k]? with
  | none => .next sys
  | some s =>
    match step s with
    | .next t => .next (sys.set k t)
    | .fault r => .fault r
    | .refused r => .refused r

/-- R108: block `j` steps and then block `k` steps. -/
def systemStepTwo (j k : Nat) (sys : List State) : Host.Outcome (List State) Fault Refusal :=
  match systemStep j sys with
  | .next t => systemStep k t
  | .fault r => .fault r
  | .refused r => .refused r

end Sys2Proof.Machine
end

