-- ==== Sys2Proof/Safety.lean ====
section
/-! DEFINITION. What holds of a block between commands: the invariant of spec/10_state.md R67 with the state it speaks of
(R57, R58, R60 to R63), and the clearing rule of spec/70_reset_and_hazards.md R701 and R708. A run is safe where every state
of it meets both. No step of the block faults or is refused (spec/60_exceptions.md R668), so nothing else can go wrong. -/

namespace Sys2Proof.Machine

/-- R67 (ii), (iii), (iv): the pending buffer is shorter than a block, COUNT is within COUNT_MAX, and PLEN is COUNT modulo
the block size. (R67 (i) holds of every term: Alg has the seven algorithms alone.) -/
def EngineInv (e : Engine) : Prop :=
  e.plen < e.bs ∧ e.count ≤ e.alg.countMax ∧ e.count % e.bs = e.plen

/-- R264: the engine of algorithm `a` that has absorbed the bytes `m` since its reset, its scratch being clear. -/
def absorbed (a : Alg) (m : List Byte) : Engine := engineUpdate (engineConstruct a .zero) m

/-- R67 (v): OUTBITS is a multiple of 8 between 8 and the natural size. -/
def OutBitsLegal (s : State) : Prop :=
  s.outBits % 8 = 0 ∧ 8 ≤ s.outBits ∧ s.outBits ≤ s.engine.alg.naturalBits

/-- R60, R61, R62: the pads are those of KEY, and KEY fits its store and LEN. -/
def KeyInv (s : State) : Prop :=
  s.ipad = innerPad s.engine.alg s.key ∧ s.opad = outerPad s.engine.alg s.key ∧
    s.key.length ≤ s.keyCapacity ∧ s.key.length ≤ maxBufferLength

/-- R67 (vi): E has absorbed IPAD and then some message bytes. -/
def Primed (s : State) : Prop := ∃ m, s.engine = absorbed s.engine.alg (s.ipad ++ m)

/-- R67 (vi): the message bytes fed since the last H_INIT, H_SETKEY or H_FINALIZE, after the command `i` has ended with
the status `st`: `m` are those before it, and `slice` is its operand's. -/
def messageAfter (i : Instr) (st : Status) (slice m : List Byte) : List Byte :=
  if st = .ok then
    match i with
    | .hInit _ _ | .hSetkey | .hFinalize => []
    | .hUpdate => m ++ slice
    | .eInit _ | .eReset | .eUpdate | .eFinalize | .eRelease | .hRelease | .hGetkey | .rdreg _ => m
  else m

/-- R67: what holds of a block after every command, while SLOT ≠ EMPTY. -/
def Inv (s : State) : Prop :=
  (s.slot ≠ .empty → EngineInv s.engine) ∧ (s.slot = .hmac → OutBitsLegal s ∧ KeyInv s ∧ Primed s)

/-- R701, R708: an empty block holds no chaining material, a block without an HMAC instance holds no key material, and the
compression scratch is clear. -/
def Cleared (s : State) : Prop :=
  (s.slot = .empty → s.engine = .zero) ∧
    (s.slot ≠ .hmac → s.ipad = padZero ∧ s.opad = padZero ∧ s.key = [] ∧ s.outBits = 0) ∧
    s.engine.scratch = .cleared

/-- A safe state: R67 and the clearing rule. -/
def Safe (s : State) : Prop := Inv s ∧ Cleared s

end Sys2Proof.Machine
end

