-- ==== Sys2Proof/Certificates/Slice0/Obligations.lean ====
section
/-! DEFINITION. The statements about the block, each a rule of spec/ or a consequence of rules. Every statement is about the
model's own functions, over every state it names no premise for; a premise that rules out unreachable states is R67's
invariant or a part of it, and StepKeepsTheInvariantOfR67 and ResetIsSafe state that it holds in every run. -/

open Sys2Proof Sys2Proof.Machine

/-! ### Command words (30_encoding.md) -/

/-- R155, R158, R162: command words written out from the spec's tables and examples decode to the commands they stand for,
and illegal ones are rejected for the condition they meet. -/
def Obligations.WrittenCommandWordsDecode : Prop :=
  decode 0x01200000#32 = .ok (.eInit 2#4) ∧
  decode 0x02000000#32 = .ok .eReset ∧
  decode 0x03000000#32 = .ok .eUpdate ∧
  decode 0x11200080#32 = .ok (.hInit 2#4 128#16) ∧
  decode 0x16000000#32 = .ok .hGetkey ∧
  decode 0x21000010#32 = .ok (.rdreg 0x10#16) ∧
  decode 0x00000000#32 = .error .opcode ∧
  decode 0x01700000#32 = .error .algCode ∧
  decode 0x01010000#32 = .error .reserved ∧
  decode 0x02100000#32 = .error .algUnused ∧
  decode 0x01000001#32 = .error .immUnused ∧
  decode 0x21000004#32 = .error .regNumber

/-- R155, R161: decoding the word of a command gives the command back, with every field at every value it admits. -/
def Obligations.DecodeOfEncodeIsTheCommand : Prop :=
  ∀ i : Instr, i.wellFormed = true → decode (encode i) = .ok i

/-- R155, R159, R161: a word that decodes is the word of the command it decodes to, and of no other. -/
def Obligations.DecodedWordIsTheCommandsOwn : Prop :=
  ∀ (w : W32) (i : Instr), decode w = .ok i → i.wellFormed = true ∧ encode i = w

/-- R158: a word is illegal exactly when one of the conditions (a) to (f) holds, an illegal command changes no state other
than ERRSTAT (and answers (ERR_ILLEGAL, 0, empty)), and the all-zero word is illegal. The command leaves the port and its
operand stands there: that is the model's port (log entry 3), not R158's. -/
def Obligations.IllegalExactlyByTheSixConditions : Prop :=
  (∀ w : W32, (∃ r, decode w = .error r) ↔
    (cwOpc w ∉ [0x01#8, 0x02#8, 0x03#8, 0x04#8, 0x05#8, 0x11#8, 0x12#8, 0x13#8, 0x14#8, 0x15#8, 0x16#8, 0x21#8]) ∨
    cwRsv w ≠ 0#4 ∨
    (cwOpc w ∈ [0x01#8, 0x11#8] ∧ 7 ≤ (cwAlg w).toNat) ∨
    (cwOpc w ∉ [0x01#8, 0x11#8] ∧ cwAlg w ≠ 0#4) ∨
    (cwOpc w ∉ [0x11#8, 0x21#8] ∧ cwImm w ≠ 0#16) ∨
    (cwOpc w = 0x21#8 ∧ cwImm w ∉ [0x0#16, 0x1#16, 0x2#16, 0x3#16, 0x10#16, 0x11#16])) ∧
  (∀ (s : State) (c : Command) (rest : List Command) (r : Illegal), s.port = c :: rest → decode c.cw = .error r →
    step s = .next { s with
      port := rest, din := c.din,
      errstat := if s.errstat = .ok then .illegal else s.errstat,
      result := some ⟨.illegal, 0, []⟩ }) ∧
  (∃ r, decode 0#32 = .error r)

/-- R155: of the table's match and mask rows, a decoded word selects its own command's row alone; and a word that selects a
row decodes to that row's command, unless its ALG or its register number is one the row's constraints exclude. -/
def Obligations.OpcodeRowsAgreeWithTheDecoder : Prop :=
  (∀ (w : W32) (i : Instr), decode w = .ok i →
    ∃ r ∈ opcodeRows, r.mnemonic = i.mnemonic ∧ r.selects w = true ∧ ∀ r' ∈ opcodeRows, r'.selects w = true → r' = r) ∧
  (∀ (w : W32) (r : OpcodeRow), r ∈ opcodeRows → r.selects w = true →
    (∃ i, decode w = .ok i ∧ i.mnemonic = r.mnemonic) ∨
    ((r.mnemonic = "E_INIT" ∨ r.mnemonic = "H_INIT") ∧ 7 ≤ (cwAlg w).toNat) ∨
    (r.mnemonic = "RDREG" ∧ cwImm w ∉ [0x0#16, 0x1#16, 0x2#16, 0x3#16, 0x10#16, 0x11#16]))

/-- R162, R163, R155: the words of every assembler line are the encodings of its commands: the algorithm at bit 20, the
output size and the register number in the low half, nothing else in the other nine lines, and a pseudo-instruction's words
those of its expansion. -/
def Obligations.AssemblerLinesEncodeTheirCommands : Prop :=
  (∀ a : Alg, ((AsmLine.eInit a).commands.map Command.cw) = [encode (.eInit a.code)]) ∧
  (∀ (a : Alg) (n : Nat) (b : AsmBuf) (off len : Int), n < 2 ^ 16 →
    ((AsmLine.hInit a n b off len).commands.map Command.cw) = [encode (.hInit a.code (BitVec.ofNat 16 n))]) ∧
  (∀ r : Reg, ((AsmLine.rdreg r).commands.map Command.cw) = [encode (.rdreg r.number)]) ∧
  (AsmLine.eReset.commands.map Command.cw = [encode .eReset] ∧
    AsmLine.eFinalize.commands.map Command.cw = [encode .eFinalize] ∧
    AsmLine.eRelease.commands.map Command.cw = [encode .eRelease] ∧
    AsmLine.hFinalize.commands.map Command.cw = [encode .hFinalize] ∧
    AsmLine.hRelease.commands.map Command.cw = [encode .hRelease] ∧
    AsmLine.hGetkey.commands.map Command.cw = [encode .hGetkey]) ∧
  (∀ (b : AsmBuf) (off len : Int),
    (AsmLine.eUpdate b off len).commands.map Command.cw = [encode .eUpdate] ∧
    (AsmLine.hSetkey b off len).commands.map Command.cw = [encode .hSetkey] ∧
    (AsmLine.hUpdate b off len).commands.map Command.cw = [encode .hUpdate] ∧
    (AsmLine.eCompute b off len).commands.map Command.cw = [encode .eUpdate, encode .eFinalize] ∧
    (AsmLine.hCompute b off len).commands.map Command.cw = [encode .hUpdate, encode .hFinalize] ∧
    (AsmLine.eUpdateAll b).commands.map Command.cw = [encode .eUpdate] ∧
    (AsmLine.hUpdateAll b).commands.map Command.cw = [encode .hUpdate]) ∧
  (∀ (a : Alg) (b : AsmBuf) (off len : Int),
    (AsmLine.eHash a b off len).commands.map Command.cw = [encode (.eInit a.code), encode .eUpdate, encode .eFinalize])

/-! ### Steps -/

/-- R106, R108, R150: a step runs the oldest command of the port: where its word decodes to `i`, the step is exec of `i` on
the state in which that command's operand is presented and the others still wait. -/
def Obligations.StepRunsTheDecodedCommand : Prop :=
  ∀ (s : State) (c : Command) (rest : List Command) (i : Instr), s.port = c :: rest → decode c.cw = .ok i →
    step s = exec i { s with port := rest, din := c.din }

/-- R667: between commands the block holds its state. -/
def Obligations.IdleBlockHoldsItsState : Prop := ∀ s : State, s.port = [] → step s = .next s

/-- R154, R668: every command, in every state, completes with a result: nothing faults and nothing is refused. -/
def Obligations.EveryCommandReturnsOneResult : Prop :=
  ∀ (i : Instr) (s : State), ∃ t r, exec i s = .next t ∧ t.result = some r

/-- R108, R665, R68: steps of different blocks of a system commute, and neither changes the other's block. -/
def Obligations.StepsOfDifferentBlocksCommute : Prop :=
  ∀ (sys : List State) (j k : Nat), j ≠ k →
    systemStepTwo j k sys = systemStepTwo k j sys ∧
    ∀ t, systemStep j sys = .next t → t[k]? = sys[k]?

/-! ### Engine commands (41_engine.md) -/

/-- R254: E_INIT of an algorithm discards what the slot held and constructs a reset engine of that algorithm; of the engine
record only the scratch is not written (R59: it is clear between commands). With the algorithm of the engine that stands
there it is E_RESET. A reserved code is ERR_ILLEGAL and no other error occurs. The model's choices: the cleared
pads' 64 zero bytes (log entry 8), and that they are cleared only where SLOT = HMAC (entry 16). -/
def Obligations.EInitConstructsAResetEngine : Prop :=
  (∀ (a : Alg) (s : State), exec (.eInit a.code) s = .next { s with
      slot := .engine,
      engine := { chain := initialChain a, pbuf := [], count := 0, scratch := s.engine.scratch },
      ipad := if s.slot = .hmac then padZero else s.ipad,
      opad := if s.slot = .hmac then padZero else s.opad,
      key := if s.slot = .hmac then [] else s.key,
      outBits := if s.slot = .hmac then 0 else s.outBits,
      result := some ⟨.ok, 0, []⟩ }) ∧
  (∀ (a : Alg) (s : State), s.slot = .engine → s.engine.alg = a → exec (.eInit a.code) s = exec .eReset s) ∧
  (∀ (c : BitVec 4) (s : State), 7 ≤ c.toNat → exec (.eInit c) s = .next (failed .illegal s)) ∧
  (∀ c : BitVec 4, encode (.eInit c) &&& 0xFF0FFFFF#32 = 0x01000000#32)

/-- R255: E_RESET restores the initial constants, empties the pending buffer and zeroes the counter, and keeps ALG; on an
empty slot it is ERR_RELEASED, on an HMAC instance ERR_KIND. -/
def Obligations.EResetRestoresTheFreshEngine : Prop :=
  encode .eReset = 0x02000000#32 ∧
  (∀ s : State, s.slot = .engine → exec .eReset s = .next { s with
      engine := { chain := initialChain s.engine.alg, pbuf := [], count := 0, scratch := s.engine.scratch },
      result := some ⟨.ok, 0, []⟩ }) ∧
  (∀ s : State, s.slot = .empty → exec .eReset s = .next (failed .released s)) ∧
  (∀ s : State, s.slot = .hmac → exec .eReset s = .next (failed .kind s))

/-- R257, R651, R655, R657: E_UPDATE absorbs the slice BUF[off..off+len) into the engine; each check that applies fails the
command with its code where the checks before it pass. A zero-length update changes nothing but the result. -/
def Obligations.EUpdateAbsorbsTheSlice : Prop :=
  encode .eUpdate = 0x03000000#32 ∧
  (∀ (s : State) (b : List Byte), s.slot = .engine → s.din.buf = some b →
    0 ≤ s.din.off.toInt → 0 ≤ s.din.len.toInt → s.din.off.toInt + s.din.len.toInt ≤ b.length →
    (s.engine.count : Int) + s.din.len.toInt ≤ s.engine.alg.countMax →
    exec .eUpdate s = .next { s with
      engine := engineUpdate s.engine ((b.drop s.din.off.toInt.toNat).take s.din.len.toInt.toNat),
      result := some ⟨.ok, 0, []⟩ }) ∧
  (∀ (s : State) (b : List Byte), s.slot = .engine → EngineInv s.engine → s.din.buf = some b →
    0 ≤ s.din.off.toInt → s.din.len = 0#32 → s.din.off.toInt ≤ b.length →
    exec .eUpdate s = .next { s with result := some ⟨.ok, 0, []⟩ }) ∧
  (∀ s : State, s.slot = .empty → exec .eUpdate s = .next (failed .released s)) ∧
  (∀ s : State, s.slot = .hmac → exec .eUpdate s = .next (failed .kind s)) ∧
  (∀ s : State, s.slot = .engine → s.din.buf = none → exec .eUpdate s = .next (failed .null s)) ∧
  (∀ (s : State) (b : List Byte), s.slot = .engine → s.din.buf = some b →
    s.din.off.toInt < 0 ∨ s.din.len.toInt < 0 → exec .eUpdate s = .next (failed .negative s)) ∧
  (∀ (s : State) (b : List Byte), s.slot = .engine → s.din.buf = some b → 0 ≤ s.din.off.toInt → 0 ≤ s.din.len.toInt →
    s.din.off.toInt + s.din.len.toInt > b.length → exec .eUpdate s = .next (failed .range s)) ∧
  (∀ (s : State) (b : List Byte), s.slot = .engine → s.din.buf = some b → 0 ≤ s.din.off.toInt → 0 ≤ s.din.len.toInt →
    s.din.off.toInt + s.din.len.toInt ≤ b.length → (s.engine.count : Int) + s.din.len.toInt > s.engine.alg.countMax →
    exec .eUpdate s = .next (failed .length s))

/-- R262, R260, R265: E_FINALIZE returns the engine's digest and leaves the engine as freshly constructed, with the same
ALG; on an empty slot it is ERR_RELEASED, on an HMAC instance ERR_KIND. -/
def Obligations.EFinalizeReturnsTheDigestAndResets : Prop :=
  encode .eFinalize = 0x04000000#32 ∧
  (∀ s : State, s.slot = .engine → exec .eFinalize s = .next { s with
      engine := { chain := initialChain s.engine.alg, pbuf := [], count := 0, scratch := .cleared },
      result := some ⟨.ok, 0, engineDigest s.engine⟩ }) ∧
  (∀ s : State, s.slot = .empty → exec .eFinalize s = .next (failed .released s)) ∧
  (∀ s : State, s.slot = .hmac → exec .eFinalize s = .next (failed .kind s))

/-- R263: E_RELEASE zeroes the engine and empties the slot, after which an engine or HMAC command that needs an instance is
ERR_RELEASED; on an empty slot it is ERR_RELEASED itself, on an HMAC instance ERR_KIND. The zeroed H is MD5's four zero
words: the model's choice, log entry 7. -/
def Obligations.EReleaseZeroesTheEngine : Prop :=
  encode .eRelease = 0x05000000#32 ∧
  (∀ s : State, s.slot = .engine → exec .eRelease s = .next { s with
      slot := .empty,
      engine := { chain := .md5 ⟨0, 0, 0, 0⟩, pbuf := [], count := 0, scratch := s.engine.scratch },
      result := some ⟨.ok, 0, []⟩ }) ∧
  (∀ s : State, s.slot = .empty → exec .eRelease s = .next (failed .released s)) ∧
  (∀ s : State, s.slot = .hmac → exec .eRelease s = .next (failed .kind s)) ∧
  (∀ (s t u : State) (i : Instr), s.slot = .engine → exec .eRelease s = .next t →
    i ∈ [.eReset, .eUpdate, .eFinalize, .eRelease, .hSetkey, .hUpdate, .hFinalize, .hRelease, .hGetkey] →
    exec i t = .next u → u = failed .released t)

/-! ### HMAC commands (47_hmac.md) -/

/-- R553, R551, R656: H_INIT of an algorithm keeps the key verbatim, derives both pads from it, and leaves the wrapped
engine primed with IPAD: its H is one compression of IPAD from the initial constants, PLEN is 0 and COUNT is BS. The checks
fail it in their order, and a reserved code is ERR_ILLEGAL; it needs no instance. -/
def Obligations.HInitConstructsAPrimedInstance : Prop :=
  (∀ (c : BitVec 4) (imm : BitVec 16), encode (.hInit c imm) &&& 0xFF0F0000#32 = 0x11000000#32) ∧
  (∀ (a : Alg) (imm : BitVec 16) (n : Nat) (k : List Byte) (s : State) (b : List Byte),
    s.din.buf = some b → 0 ≤ s.din.off.toInt → 0 ≤ s.din.len.toInt →
    s.din.off.toInt + s.din.len.toInt ≤ b.length →
    n = (if imm = 0#16 then 8 * a.ds else imm.toNat) → n % 8 = 0 → n ≤ 8 * a.ds →
    s.din.len.toInt ≤ s.keyCapacity →
    k = (b.drop s.din.off.toInt.toNat).take s.din.len.toInt.toNat →
    exec (.hInit a.code imm) s = .next { s with
      slot := .hmac,
      engine := { chain := compress (initialChain a) (innerPad a k), pbuf := [], count := a.bs, scratch := .cleared },
      ipad := innerPad a k, opad := outerPad a k, key := k, outBits := n,
      result := some ⟨.ok, 0, []⟩ }) ∧
  (∀ (c : BitVec 4) (imm : BitVec 16) (s : State), 7 ≤ c.toNat →
    exec (.hInit c imm) s = .next (failed .illegal s)) ∧
  (∀ (a : Alg) (imm : BitVec 16) (s : State), s.din.buf = none →
    exec (.hInit a.code imm) s = .next (failed .null s)) ∧
  (∀ (a : Alg) (imm : BitVec 16) (s : State) (b : List Byte), s.din.buf = some b →
    s.din.off.toInt < 0 ∨ s.din.len.toInt < 0 → exec (.hInit a.code imm) s = .next (failed .negative s)) ∧
  (∀ (a : Alg) (imm : BitVec 16) (s : State) (b : List Byte), s.din.buf = some b →
    0 ≤ s.din.off.toInt → 0 ≤ s.din.len.toInt → s.din.off.toInt + s.din.len.toInt > b.length →
    exec (.hInit a.code imm) s = .next (failed .range s)) ∧
  (∀ (a : Alg) (imm : BitVec 16) (n : Nat) (s : State) (b : List Byte), s.din.buf = some b →
    0 ≤ s.din.off.toInt → 0 ≤ s.din.len.toInt → s.din.off.toInt + s.din.len.toInt ≤ b.length →
    n = (if imm = 0#16 then 8 * a.ds else imm.toNat) →
    n % 8 ≠ 0 ∨ n > 8 * a.ds ∨ s.din.len.toInt > s.keyCapacity →
    exec (.hInit a.code imm) s = .next (failed .config s))

/-- R554, R551: H_SETKEY replaces the key and its pads and re-primes the wrapped engine, discarding what it had absorbed,
and keeps ALG and OUTBITS. -/
def Obligations.HSetkeyRekeysTheInstance : Prop :=
  encode .hSetkey = 0x12000000#32 ∧
  (∀ (k : List Byte) (s : State) (b : List Byte), s.slot = .hmac → s.din.buf = some b →
    0 ≤ s.din.off.toInt → 0 ≤ s.din.len.toInt → s.din.off.toInt + s.din.len.toInt ≤ b.length →
    s.din.len.toInt ≤ s.keyCapacity → k = (b.drop s.din.off.toInt.toNat).take s.din.len.toInt.toNat →
    exec .hSetkey s = .next { s with
      engine := { chain := compress (initialChain s.engine.alg) (innerPad s.engine.alg k), pbuf := [],
                  count := s.engine.alg.bs, scratch := .cleared },
      ipad := innerPad s.engine.alg k, opad := outerPad s.engine.alg k, key := k,
      result := some ⟨.ok, 0, []⟩ }) ∧
  (∀ s : State, s.slot = .empty → exec .hSetkey s = .next (failed .released s)) ∧
  (∀ s : State, s.slot = .engine → exec .hSetkey s = .next (failed .kind s)) ∧
  (∀ s : State, s.slot = .hmac → s.din.buf = none → exec .hSetkey s = .next (failed .null s)) ∧
  (∀ (s : State) (b : List Byte), s.slot = .hmac → s.din.buf = some b →
    s.din.off.toInt < 0 ∨ s.din.len.toInt < 0 → exec .hSetkey s = .next (failed .negative s)) ∧
  (∀ (s : State) (b : List Byte), s.slot = .hmac → s.din.buf = some b → 0 ≤ s.din.off.toInt → 0 ≤ s.din.len.toInt →
    s.din.off.toInt + s.din.len.toInt > b.length → exec .hSetkey s = .next (failed .range s)) ∧
  (∀ (s : State) (b : List Byte), s.slot = .hmac → s.din.buf = some b → 0 ≤ s.din.off.toInt → 0 ≤ s.din.len.toInt →
    s.din.off.toInt + s.din.len.toInt ≤ b.length → s.din.len.toInt > s.keyCapacity →
    exec .hSetkey s = .next (failed .config s))

/-- R555, R657: H_UPDATE forwards the slice to the wrapped engine; the checks fail it in their order. -/
def Obligations.HUpdateForwardsTheSlice : Prop :=
  encode .hUpdate = 0x13000000#32 ∧
  (∀ (s : State) (b : List Byte), s.slot = .hmac → s.din.buf = some b →
    0 ≤ s.din.off.toInt → 0 ≤ s.din.len.toInt → s.din.off.toInt + s.din.len.toInt ≤ b.length →
    (s.engine.count : Int) + s.din.len.toInt ≤ s.engine.alg.countMax →
    exec .hUpdate s = .next { s with
      engine := engineUpdate s.engine ((b.drop s.din.off.toInt.toNat).take s.din.len.toInt.toNat),
      result := some ⟨.ok, 0, []⟩ }) ∧
  (∀ s : State, s.slot = .empty → exec .hUpdate s = .next (failed .released s)) ∧
  (∀ s : State, s.slot = .engine → exec .hUpdate s = .next (failed .kind s)) ∧
  (∀ s : State, s.slot = .hmac → s.din.buf = none → exec .hUpdate s = .next (failed .null s)) ∧
  (∀ (s : State) (b : List Byte), s.slot = .hmac → s.din.buf = some b →
    s.din.off.toInt < 0 ∨ s.din.len.toInt < 0 → exec .hUpdate s = .next (failed .negative s)) ∧
  (∀ (s : State) (b : List Byte), s.slot = .hmac → s.din.buf = some b → 0 ≤ s.din.off.toInt → 0 ≤ s.din.len.toInt →
    s.din.off.toInt + s.din.len.toInt > b.length → exec .hUpdate s = .next (failed .range s)) ∧
  (∀ (s : State) (b : List Byte), s.slot = .hmac → s.din.buf = some b → 0 ≤ s.din.off.toInt → 0 ≤ s.din.len.toInt →
    s.din.off.toInt + s.din.len.toInt ≤ b.length → (s.engine.count : Int) + s.din.len.toInt > s.engine.alg.countMax →
    exec .hUpdate s = .next (failed .length s))

/-- R556, R559: H_FINALIZE returns the first OUTBITS/8 bytes of the digest of OPAD followed by the inner digest, and leaves
the wrapped engine of the same ALG as it stands after absorbing IPAD from reset. -/
def Obligations.HFinalizeReturnsTheTagAndReprimes : Prop :=
  encode .hFinalize = 0x14000000#32 ∧
  (∀ s : State, s.slot = .hmac → exec .hFinalize s = .next { s with
      engine := absorbed s.engine.alg s.ipad,
      result := some ⟨.ok, 0, (digest s.engine.alg (s.opad ++ engineDigest s.engine)).take (s.outBits / 8)⟩ }) ∧
  (∀ s : State, s.slot = .empty → exec .hFinalize s = .next (failed .released s)) ∧
  (∀ s : State, s.slot = .engine → exec .hFinalize s = .next (failed .kind s))

/-- R557: H_RELEASE zeroes the key, both pads, the output size and the wrapped engine, and empties the slot. The
model's choices: MD5's four zero words for H (log entry 7), 64 zero bytes for the pads (entry 8). -/
def Obligations.HReleaseWipesTheKeyMaterial : Prop :=
  encode .hRelease = 0x15000000#32 ∧
  (∀ s : State, s.slot = .hmac → exec .hRelease s = .next { s with
      slot := .empty,
      engine := { chain := .md5 ⟨0, 0, 0, 0⟩, pbuf := [], count := 0, scratch := s.engine.scratch },
      ipad := padZero, opad := padZero, key := [], outBits := 0,
      result := some ⟨.ok, 0, []⟩ }) ∧
  (∀ s : State, s.slot = .empty → exec .hRelease s = .next (failed .released s)) ∧
  (∀ s : State, s.slot = .engine → exec .hRelease s = .next (failed .kind s))

/-- R558: H_GETKEY returns KLEN and KEY and changes no state. -/
def Obligations.HGetkeyReturnsTheKey : Prop :=
  encode .hGetkey = 0x16000000#32 ∧
  (∀ s : State, s.slot = .hmac → exec .hGetkey s =
    .next { s with result := some ⟨.ok, BitVec.ofNat 32 s.key.length, s.key⟩ }) ∧
  (∀ s : State, s.slot = .empty → exec .hGetkey s = .next (failed .released s)) ∧
  (∀ s : State, s.slot = .engine → exec .hGetkey s = .next (failed .kind s))

/-! ### Register reads (48_query.md) -/

/-- R600, R601, R65: RDREG returns the value of the table's register and changes no state; registers 0x0 to 0x3 need an
instance, and any other number is ERR_ILLEGAL. RVAL holds OUTBITS modulo 2^32: the model's choice, log entry 18. -/
def Obligations.RdregReturnsTheRegister : Prop :=
  (∀ r : BitVec 16, encode (.rdreg r) &&& 0xFFFF0000#32 = 0x21000000#32) ∧
  (∀ s : State, s.slot ≠ .empty →
    exec (.rdreg 0x0#16) s = .next { s with result := some ⟨.ok, BitVec.ofNat 32 s.engine.alg.bs, []⟩ } ∧
    exec (.rdreg 0x1#16) s = .next { s with result := some ⟨.ok, BitVec.ofNat 32 (8 * s.engine.alg.ds), []⟩ } ∧
    exec (.rdreg 0x2#16) s = .next { s with
      result := some ⟨.ok, BitVec.ofNat 32 (if s.slot = .hmac then s.outBits else 8 * s.engine.alg.ds), []⟩ } ∧
    exec (.rdreg 0x3#16) s = .next { s with result := some ⟨.ok, BitVec.ofNat 32 s.engine.alg.code.toNat, []⟩ }) ∧
  (∀ s : State, s.slot = .empty → ∀ r ∈ [0x0#16, 0x1#16, 0x2#16, 0x3#16],
    exec (.rdreg r) s = .next (failed .released s)) ∧
  (∀ s : State,
    exec (.rdreg 0x10#16) s = .next { s with result := some ⟨.ok, BitVec.ofNat 32 s.errstat.code.toNat, []⟩ } ∧
    exec (.rdreg 0x11#16) s = .next { s with
      result := some ⟨.ok, match s.slot with | .empty => 0 | .engine => 1 | .hmac => 2, []⟩ }) ∧
  (∀ (r : BitVec 16) (s : State), r ∉ [0x0#16, 0x1#16, 0x2#16, 0x3#16, 0x10#16, 0x11#16] →
    exec (.rdreg r) s = .next (failed .illegal s))

/-- R66, R666: what RDREG returns does not depend on H, PBUF, COUNT, the scratch, the pads or the key: two states that agree
on SLOT, ERRSTAT, ALG and OUTBITS get the same result. -/
def Obligations.RdregRevealsNoHiddenState : Prop :=
  ∀ (r : BitVec 16) (s s' : State), s.slot = s'.slot → s.errstat = s'.errstat → s.engine.alg = s'.engine.alg →
    s.outBits = s'.outBits →
    ∃ t t', exec (.rdreg r) s = .next t ∧ exec (.rdreg r) s' = .next t' ∧ t.result = t'.result

/-! ### Errors (60_exceptions.md) -/

/-- R652: a command that fails with a code changes nothing but ERRSTAT, which captures the code if it was 0, and returns
(code, 0, empty). -/
def Obligations.FailingCommandChangesOnlyErrstat : Prop :=
  ∀ (i : Instr) (s t : State) (r : Result), exec i s = .next t → t.result = some r → r.status ≠ .ok →
    t = { s with
      errstat := if s.errstat = .ok then r.status else s.errstat,
      result := some ⟨r.status, 0, []⟩ }

/-- R64, R660: ERRSTAT holds the code of the first failing command: once it is not 0 no step changes it, and while it is 0 a
step that runs a command leaves it at the code that command returned. -/
def Obligations.ErrstatKeepsTheFirstFailure : Prop :=
  ∀ s t : State, step s = .next t →
    (s.errstat ≠ .ok → t.errstat = s.errstat) ∧
    (s.errstat = .ok → s.port ≠ [] → ∃ r, t.result = some r ∧ t.errstat = r.status) ∧
    (s.port = [] → t.errstat = s.errstat)

/-- R650, R651: a command reports OK or the code of a check that R651's table lists for it. -/
def Obligations.CommandsReportOnlyTheirChecks : Prop :=
  ∀ (i : Instr) (s t : State) (r : Result), i.wellFormed = true → exec i s = .next t → t.result = some r →
    r.status = .ok ∨ r.status ∈
      (match i with
        | .eInit _ => []
        | .eReset | .eFinalize | .eRelease | .hFinalize | .hRelease | .hGetkey => [Status.released, .kind]
        | .eUpdate | .hUpdate => [.released, .kind, .null, .negative, .range, .length]
        | .hInit _ _ => [.null, .negative, .range, .config]
        | .hSetkey => [.released, .kind, .null, .negative, .range, .config]
        | .rdreg n => if n = 0x10#16 ∨ n = 0x11#16 then [] else [.released])

/-- R654, R700: while SLOT = EMPTY, as after power-on reset, the commands that succeed are the two INITs and RDREG of ERRSTAT
and SLOT. -/
def Obligations.EmptySlotAdmitsOnlyInitAndStatus : Prop :=
  ∀ (i : Instr) (s t : State) (r : Result), s.slot = .empty → exec i s = .next t → t.result = some r → r.status = .ok →
    (∃ a, i = .eInit a) ∨ (∃ a n, i = .hInit a n) ∨ i = .rdreg 0x10#16 ∨ i = .rdreg 0x11#16

/-! ### What commands leave unchanged (10_state.md, 20_memory.md) -/

/-- R50: SLOT is written by E_INIT (ENGINE), H_INIT (HMAC) and the two RELEASEs (EMPTY), and by no other command. -/
def Obligations.SlotIsWrittenByInitAndReleaseAlone : Prop :=
  ∀ (i : Instr) (s t : State), exec i s = .next t →
    t.slot = s.slot ∨ (∃ a, i = .eInit a ∧ t.slot = .engine) ∨ (∃ a n, i = .hInit a n ∧ t.slot = .hmac) ∨
      ((i = .eRelease ∨ i = .hRelease) ∧ t.slot = .empty)

/-- R55: no command but an INIT changes the algorithm of an instance; a RELEASE, which discards the instance, zeroes it. -/
def Obligations.AlgorithmIsFixedAtConstruction : Prop :=
  ∀ (i : Instr) (s t : State), exec i s = .next t →
    t.engine.alg = s.engine.alg ∨ (∃ a, i = .eInit a) ∨ (∃ a n, i = .hInit a n) ∨
      ((i = .eRelease ∨ i = .hRelease) ∧ t.slot = .empty ∧ t.engine.alg = .md5)

/-- R61, R62, R63, R254, R263, R557: the key and the pads are written by H_INIT and H_SETKEY, OUTBITS by H_INIT, and both
are cleared where an HMAC instance is discarded; every other command leaves them. Cleared pads are 64 zero bytes: the
model's choice, log entry 8. -/
def Obligations.KeyMaterialIsWrittenByKeyCommandsAlone : Prop :=
  ∀ (i : Instr) (s t : State), exec i s = .next t →
    ((t.key = s.key ∧ t.ipad = s.ipad ∧ t.opad = s.opad) ∨ (∃ a n, i = .hInit a n) ∨ i = .hSetkey ∨
      (t.key = [] ∧ t.ipad = padZero ∧ t.opad = padZero ∧ ((∃ a, i = .eInit a) ∨ i = .hRelease))) ∧
    (t.outBits = s.outBits ∨ (∃ a n, i = .hInit a n) ∨ (t.outBits = 0 ∧ ((∃ a, i = .eInit a) ∨ i = .hRelease)))

/-- R102, R113: no command writes a host buffer: the operand at the port and the commands that wait are as before, and so is
the implementation's KEY_CAPACITY (R11). The engine and the scratch are the only other elements a command with an instance
may write besides SLOT, ERRSTAT, the key material and the result, and RDREG, H_GETKEY and a failing command leave them. -/
def Obligations.HostOperandsAreNotWritten : Prop :=
  ∀ (i : Instr) (s t : State), exec i s = .next t →
    t.din = s.din ∧ t.port = s.port ∧ t.keyCapacity = s.keyCapacity ∧
    (i = .hGetkey ∨ (∃ r, i = .rdreg r) → t.engine = s.engine)

/-- R153: a command that takes no data ignores DIN entirely: with any other operand it does the same. -/
def Obligations.CommandsWithoutDataIgnoreTheOperand : Prop :=
  ∀ (i : Instr) (s t : State) (d : Din),
    i ≠ .eUpdate → (∀ a n, i ≠ .hInit a n) → i ≠ .hSetkey → i ≠ .hUpdate →
    exec i s = .next t → exec i { s with din := d } = .next { t with din := d }

/-- R101, R105: no byte of BUF outside the slice is read, and the slice may start anywhere: a buffer that holds the same slice
at any other offset gives the same effect. -/
def Obligations.OnlyTheSliceIsRead : Prop :=
  ∀ (i : Instr) (s t : State) (b b' : List Byte) (off' : W32),
    s.din.buf = some b →
    0 ≤ s.din.off.toInt → 0 ≤ s.din.len.toInt → s.din.off.toInt + s.din.len.toInt ≤ b.length →
    0 ≤ off'.toInt → off'.toInt + s.din.len.toInt ≤ b'.length →
    (b'.drop off'.toInt.toNat).take s.din.len.toInt.toNat =
      (b.drop s.din.off.toInt.toNat).take s.din.len.toInt.toNat →
    exec i s = .next t →
    exec i { s with din := ⟨some b', off', s.din.len⟩ } = .next { t with din := ⟨some b', off', s.din.len⟩ }

/-! ### Reset and invariants (10_state.md R67, R69; 70_reset_and_hazards.md) -/

/-- R69, R700: power-on reset puts every element at its reset value, ERRSTAT included, whatever the block held. (R11:
KEY_CAPACITY is no state of the block's; State.reset has its default.) -/
def Obligations.PowerOnResetValues : Prop :=
  (∀ s : State, s.powerOnReset.slot = .empty ∧ s.powerOnReset.errstat = .ok ∧ s.powerOnReset.engine.alg.code = 0 ∧
    s.powerOnReset.engine.chain = .md5 ⟨0, 0, 0, 0⟩ ∧ s.powerOnReset.engine.pbuf = [] ∧
    s.powerOnReset.engine.count = 0 ∧ (∀ b ∈ s.powerOnReset.ipad, b = 0) ∧ (∀ b ∈ s.powerOnReset.opad, b = 0) ∧
    s.powerOnReset.key = [] ∧ s.powerOnReset.outBits = 0 ∧ (∀ w ∈ s.powerOnReset.engine.scratch.vars, w = 0) ∧
    (∀ w ∈ s.powerOnReset.engine.scratch.words, w = 0) ∧ s.powerOnReset.keyCapacity = s.keyCapacity) ∧
  State.reset.powerOnReset = State.reset ∧ State.reset.keyCapacity = 2 ^ 31 - 1

/-- R67, R69: the state after power-on reset meets the invariant and the clearing rule. -/
def Obligations.ResetIsSafe : Prop := Safe State.reset

/-- R67: the invariant holds after every command, from every state it holds in: (ii) to (v) and (vi) are Inv's, and with it
ALG is one of 0..6 (i) and a wrapped engine has counted at least a block (vi). Which bytes E has absorbed after IPAD: those
fed since the last H_INIT, H_SETKEY or H_FINALIZE, command by command. -/
def Obligations.StepKeepsTheInvariantOfR67 : Prop :=
  (∀ s t : State, Inv s → step s = .next t →
    Inv t ∧ (t.slot ≠ .empty → t.engine.alg.code.toNat ≤ 6) ∧ (t.slot = .hmac → t.engine.bs ≤ t.engine.count)) ∧
  (∀ (i : Instr) (s t : State) (m : List Byte), (s.slot = .hmac → s.engine = absorbed s.engine.alg (s.ipad ++ m)) →
    exec i s = .next t → t.slot = .hmac →
    ∃ r, t.result = some r ∧
      t.engine = absorbed t.engine.alg (t.ipad ++ messageAfter i r.status s.din.slice m))

/-- R701, R708: an empty slot holds no chaining material, a block without an HMAC instance holds no key material, and the
scratch is clear, after every command, from every state in which that holds. -/
def Obligations.StepKeepsTheBlockCleared : Prop := ∀ s t : State, Cleared s → step s = .next t → Cleared t

/-! ### The shared engine logic (41_engine.md) -/

/-- R269: an update is the same as feeding its bytes one at a time. -/
def Obligations.UpdateIsFeedingBytewise : Prop :=
  ∀ (e : Engine) (d : List Byte), e.plen < e.bs → engineUpdate e d = d.foldl engineFeed e

/-- R264: chunk invariance: from the same engine, for every partition of a byte string, updating with the parts in turn
leaves the same engine as updating with the whole, and finalizing returns the same digest. The engine after the updates
depends on the whole byte sequence since the reset alone: H is the compression chain over its complete blocks, PBUF holds
the trailing len mod BS bytes, and COUNT is its length. -/
def Obligations.ChunkingChangesNothing : Prop :=
  (∀ (e : Engine) (parts : List (List Byte)), e.plen < e.bs →
    parts.foldl engineUpdate e = engineUpdate e parts.flatten ∧
    engineDigest (parts.foldl engineUpdate e) = engineDigest (engineUpdate e parts.flatten)) ∧
  (∀ (a : Alg) (e : Engine) (parts : List (List Byte)) (m : List Byte), parts.flatten = m →
    (parts.foldl engineUpdate (engineConstruct a e)).chain = (List.range (m.length / a.bs)).foldl
      (fun c j => compress c ((m.drop (j * a.bs)).take a.bs)) (initialChain a) ∧
    (parts.foldl engineUpdate (engineConstruct a e)).pbuf = m.drop (m.length / a.bs * a.bs) ∧
    (parts.foldl engineUpdate (engineConstruct a e)).plen = m.length % a.bs ∧
    (parts.foldl engineUpdate (engineConstruct a e)).count = m.length)

/-- R256, R57, R58: an update counts the bytes it consumes, and leaves as many pending as are left over from whole blocks. -/
def Obligations.UpdateCountsAndBuffers : Prop :=
  ∀ (e : Engine) (d : List Byte), e.plen < e.bs →
    (engineUpdate e d).count = e.count + d.length ∧
    (engineUpdate e d).plen = (e.plen + d.length) % e.bs ∧
    (engineUpdate e d).alg = e.alg

/-- R267: finalization takes one compression where PLEN ≤ BS − LF − 1 and two otherwise. Of two blocks the first is PBUF, the
0x80 byte and zeros, and the second zeros and the length field; at PLEN = BS − LF − 1 the 0x80 byte is followed at once by the
length field, with no zero byte between them. -/
def Obligations.FinalizationTakesOneOrTwoBlocks : Prop :=
  (∀ (a : Alg) (p : Nat), (a.bs = 64 ∧ a.lf = 8 ∧ (p ≤ a.bs - a.lf - 1 ↔ p ≤ 55)) ∨
    (a.bs = 128 ∧ a.lf = 16 ∧ (p ≤ a.bs - a.lf - 1 ↔ p ≤ 111))) ∧
  (∀ e : Engine, e.plen < e.bs →
    engineFinish e = compressBlocks (if e.plen ≤ e.bs - e.alg.lf - 1 then 1 else 2) e (finalBlocks e) ∧
    (finalBlocks e).length = (if e.plen ≤ e.bs - e.alg.lf - 1 then 1 else 2) * e.bs ∧
    (e.plen = e.bs - e.alg.lf - 1 →
      finalBlocks e = e.pbuf ++ [0x80#8] ++ lenField e.alg (8 * e.count) ∧ padZeros e.alg e.plen = 0) ∧
    (e.bs - e.alg.lf - 1 < e.plen →
      (finalBlocks e).take e.bs = e.pbuf ++ [0x80#8] ++ List.replicate (e.bs - 1 - e.plen) 0 ∧
      (finalBlocks e).drop e.bs = List.replicate (e.bs - e.alg.lf) 0 ++ lenField e.alg (8 * e.count)))

/-- R259, R268, R103: within COUNT_MAX the length field holds the bit count exactly, in the algorithm's byte order: a 64-bit
little-endian, a 64-bit big-endian, or a 128-bit big-endian value. -/
def Obligations.LengthFieldHoldsTheBitCount : Prop :=
  ∀ (a : Alg) (n : Nat), n ≤ a.countMax →
    (lenField a (8 * n)).length = a.lf ∧
    (a.lf = 8 → a.order = .little → (unpack64le (lenField a (8 * n)) 0).toNat = 8 * n) ∧
    (a.lf = 8 → a.order = .big → (unpack64be (lenField a (8 * n)) 0).toNat = 8 * n) ∧
    (a.lf = 16 → (unpack64be (lenField a (8 * n)) 0).toNat * 2 ^ 64 + (unpack64be (lenField a (8 * n)) 8).toNat = 8 * n)

/-- R266: E_FINALIZE's DOUT has exactly DS bytes, whatever the engine has absorbed; and H_FINALIZE's (R556) exactly
OUTBITS/8 bytes. -/
def Obligations.DigestsAndTagsHaveFixedLength : Prop :=
  (∀ s : State, s.slot = .engine → ∃ t d, exec .eFinalize s = .next t ∧ t.result = some ⟨.ok, 0, d⟩ ∧
    d.length = s.engine.alg.ds) ∧
  (∀ s : State, s.slot = .hmac → OutBitsLegal s → ∃ t d, exec .hFinalize s = .next t ∧
    t.result = some ⟨.ok, 0, d⟩ ∧ d.length = s.outBits / 8)

/-- R265: after finalization the engine is as right after construction with the same ALG, so the digest of what it absorbs
next is that of a fresh engine. -/
def Obligations.FinalizedEngineIsFresh : Prop :=
  ∀ e : Engine, engineFinalize e = engineConstruct e.alg .zero ∧
    ∀ d, engineDigest (engineUpdate (engineFinalize e) d) = digest e.alg d

/-- R251, R261, R309, R359, R409, R459, R509: SHA-224 and SHA-384 compress as SHA-256 and SHA-512 do; a digest is the
chaining words, H[0] first, in the algorithm's order, SHA-224 keeping the first seven and SHA-384 the first six. -/
def Obligations.DigestIsTheLeadingWords : Prop :=
  (∀ (h : Words8 W32) (b : List Byte), ∃ h', compress (.sha224 h) b = .sha224 h' ∧ compress (.sha256 h) b = .sha256 h') ∧
  (∀ (h : Words8 W64) (b : List Byte), ∃ h', compress (.sha384 h) b = .sha384 h' ∧ compress (.sha512 h) b = .sha512 h') ∧
  (∀ h : Words4 W32, digestBytes (.md5 h) = pack32le h.w0 ++ pack32le h.w1 ++ pack32le h.w2 ++ pack32le h.w3) ∧
  (∀ h : Words5 W32, digestBytes (.sha1 h) =
    pack32be h.w0 ++ pack32be h.w1 ++ pack32be h.w2 ++ pack32be h.w3 ++ pack32be h.w4) ∧
  (∀ h : Words8 W32, digestBytes (.sha224 h) = pack32be h.w0 ++ pack32be h.w1 ++ pack32be h.w2 ++ pack32be h.w3 ++
    pack32be h.w4 ++ pack32be h.w5 ++ pack32be h.w6) ∧
  (∀ h : Words8 W32, digestBytes (.sha256 h) = digestBytes (.sha224 h) ++ pack32be h.w7) ∧
  (∀ h : Words8 W64, digestBytes (.sha384 h) = pack64be h.w0 ++ pack64be h.w1 ++ pack64be h.w2 ++ pack64be h.w3 ++
    pack64be h.w4 ++ pack64be h.w5) ∧
  (∀ h : Words8 W64, digestBytes (.sha512 h) = digestBytes (.sha384 h) ++ pack64be h.w6 ++ pack64be h.w7) ∧
  (∀ h : Words5 W32, digestBytes (.rmd160 h) =
    pack32le h.w0 ++ pack32le h.w1 ++ pack32le h.w2 ++ pack32le h.w3 ++ pack32le h.w4) ∧
  (∀ c : Chain, digestBytes c = (packWords c).take c.alg.ds ∧ (digestBytes c).length = c.alg.ds ∧
    c.alg.ds = (match c.alg with
      | .md5 => 16 | .sha1 => 20 | .sha256 => 32 | .sha224 => 28 | .sha512 => 64 | .sha384 => 48 | .rmd160 => 20))

/-! ### Words and compression units (00_scope.md R13, 40_endian.md, 42 to 46) -/

/-- R13: `rotl` and `rotr` are the rotations of a word, for every amount between 0 and the width. -/
def Obligations.RotationsMoveEveryBit : Prop :=
  ∀ (N : Nat) (x : BitVec N) (n : Nat), 0 < n → n < N →
    rotl x n = x.rotateLeft n ∧ rotr x n = x.rotateRight n ∧ rotr (rotl x n) n = x

/-- R211: the round-trip laws of the endian units, and each big-endian packing is the reversal of the little-endian one. -/
def Obligations.EndianUnitsRoundTrip : Prop :=
  (∀ w : W32, unpack32le (pack32le w) 0 = w ∧ unpack32be (pack32be w) 0 = w ∧
    pack32be w = (pack32le w).reverse) ∧
  (∀ w : W64, unpack64le (pack64le w) 0 = w ∧ unpack64be (pack64be w) 0 = w ∧
    pack64be w = (pack64le w).reverse) ∧
  (∀ (s : List Byte) (i : Nat), i + 4 ≤ s.length →
    pack32le (unpack32le s i) = (s.drop i).take 4 ∧ pack32be (unpack32be s i) = (s.drop i).take 4) ∧
  (∀ (s : List Byte) (i : Nat), i + 8 ≤ s.length →
    pack64le (unpack64le s i) = (s.drop i).take 8 ∧ pack64be (unpack64be s i) = (s.drop i).take 8)

/-- R352, R353: SHA-1's schedule has 80 words: the block's sixteen, then each the rotation of four earlier ones. -/
def Obligations.Sha1ScheduleRecurrence : Prop :=
  ∀ b : List Byte, (sha1Schedule b).length = 80 ∧
    (∀ t, t < 16 → (sha1Schedule b).getD t 0 = unpack32be b (4 * t)) ∧
    (∀ t, 16 ≤ t → t < 80 → (sha1Schedule b).getD t 0 =
      rotl ((sha1Schedule b).getD (t - 3) 0 ^^^ (sha1Schedule b).getD (t - 8) 0 ^^^
        (sha1Schedule b).getD (t - 14) 0 ^^^ (sha1Schedule b).getD (t - 16) 0) 1)

/-- R405, R455: SHA-256's schedule has 64 words and SHA-512's 80, by the recurrence over their σ0 and σ1. -/
def Obligations.Sha2ScheduleRecurrences : Prop :=
  (∀ b : List Byte, (sha256Schedule b).length = 64 ∧
    (∀ t, t < 16 → (sha256Schedule b).getD t 0 = unpack32be b (4 * t)) ∧
    (∀ t, 16 ≤ t → t < 64 → (sha256Schedule b).getD t 0 =
      sha256SmallSigma1 ((sha256Schedule b).getD (t - 2) 0) + (sha256Schedule b).getD (t - 7) 0 +
        sha256SmallSigma0 ((sha256Schedule b).getD (t - 15) 0) + (sha256Schedule b).getD (t - 16) 0)) ∧
  (∀ b : List Byte, (sha512Schedule b).length = 80 ∧
    (∀ t, t < 16 → (sha512Schedule b).getD t 0 = unpack64be b (8 * t)) ∧
    (∀ t, 16 ≤ t → t < 80 → (sha512Schedule b).getD t 0 =
      sha512SmallSigma1 ((sha512Schedule b).getD (t - 2) 0) + (sha512Schedule b).getD (t - 7) 0 +
        sha512SmallSigma0 ((sha512Schedule b).getD (t - 15) 0) + (sha512Schedule b).getD (t - 16) 0))

/-! ### HMAC laws (47_hmac.md) -/

/-- R61, R551, R552: the pads have BS bytes, each the pad byte XOR the effective key's byte, the key itself up to BS bytes
and its digest beyond, zero-extended to a block. -/
def Obligations.PadsAreTheMaskedEffectiveKey : Prop :=
  ∀ (a : Alg) (k : List Byte),
    (innerPad a k).length = a.bs ∧ (outerPad a k).length = a.bs ∧
    ∀ i, i < a.bs →
      (innerPad a k).getD i 0 = 0x36#8 ^^^ (if k.length ≤ a.bs then k else digest a k).getD i 0 ∧
      (outerPad a k).getD i 0 = 0x5C#8 ^^^ (if k.length ≤ a.bs then k else digest a k).getD i 0

/-- R561 (a), R552: a key of at most BS bytes acts verbatim: it is its own effective key. A longer one acts as its digest:
the digest is its effective key, and pads and tag are those of the digest as the key. Of two different keys of exactly BS
bytes the inner pads differ. (A shorter key and the same key with a zero byte after it have the same pads.) -/
def Obligations.LongKeyActsAsItsDigest : Prop :=
  (∀ (a : Alg) (k : List Byte), k.length ≤ a.bs → effectiveKey a k = k) ∧
  (∀ (a : Alg) (k : List Byte), a.bs < k.length →
    effectiveKey a k = digest a k ∧
    innerPad a k = innerPad a (digest a k) ∧ outerPad a k = outerPad a (digest a k) ∧
    ∀ m, hmacFormula a k m = hmacFormula a (digest a k) m) ∧
  (∀ (a : Alg) (k k' : List Byte), k.length = a.bs → k'.length = a.bs → innerPad a k = innerPad a k' → k = k')

/-- R561 (b), R559: with OUTBITS = n the tag is the first n/8 bytes of the tag with OUTBITS the natural size, for the same
key and message. -/
def Obligations.TagTruncationKeepsLeadingBytes : Prop :=
  ∀ (s : State) (n : Nat), s.slot = .hmac → n ≤ s.engine.alg.naturalBits →
    ∃ t u full, exec .hFinalize { s with outBits := s.engine.alg.naturalBits } = .next t ∧
      exec .hFinalize { s with outBits := n } = .next u ∧
      t.result = some ⟨.ok, 0, full⟩ ∧ u.result = some ⟨.ok, 0, full.take (n / 8)⟩ ∧
      full.length = s.engine.alg.ds

/-- R561 (c), R554: re-keying an instance gives the same state as constructing it anew with the new key, the same algorithm
and the same output size, whatever it had absorbed. -/
def Obligations.RekeyingIsConstructingAnew : Prop :=
  ∀ (s : State) (imm : BitVec 16) (b : List Byte), s.slot = .hmac →
    hmacOutBits s.engine.alg imm = s.outBits → OutBitsLegal s →
    s.din.buf = some b → 0 ≤ s.din.off.toInt → 0 ≤ s.din.len.toInt →
    s.din.off.toInt + s.din.len.toInt ≤ b.length → s.din.len.toInt ≤ s.keyCapacity →
    ∃ t, exec .hSetkey s = .next t ∧ exec (.hInit s.engine.alg.code imm) s = .next t

/-- R562: after H_FINALIZE the instance is in the state that setting its key left it in. -/
def Obligations.FinalizedInstanceIsAsKeyed : Prop :=
  ∀ s : State, s.slot = .hmac → KeyInv s →
    ∃ t, exec .hFinalize s = .next t ∧ t.slot = .hmac ∧ t.engine = (hmacSetKey s s.key).engine ∧
      t.ipad = (hmacSetKey s s.key).ipad ∧ t.opad = (hmacSetKey s s.key).opad ∧ t.key = s.key ∧ t.outBits = s.outBits

/-- R558, R62: H_GETKEY after H_SETKEY returns the key's length and the key exactly as it was supplied, however long. -/
def Obligations.KeyIsReadBackVerbatim : Prop :=
  ∀ (s : State) (k : List Byte) (off len : W32) (b : List Byte) (d : Din) (rest : List Command),
    s.slot = .hmac → 0 ≤ off.toInt → 0 ≤ len.toInt → off.toInt + len.toInt ≤ b.length → len.toInt ≤ s.keyCapacity →
    k = (b.drop off.toInt.toNat).take len.toInt.toNat →
    s.port = ⟨encode .hSetkey, ⟨some b, off, len⟩⟩ :: ⟨encode .hGetkey, d⟩ :: rest →
    ∃ t, Sys2Proof.core.run 2 s = .next t ∧ t.result = some ⟨.ok, len, k⟩ ∧ k.length = len.toNat

/-! ### Whole computations -/

/-- R264, R254, R257, R262: from any state, E_INIT of an algorithm, one E_UPDATE for each part of a message and E_FINALIZE
return the digest of the whole message, for every way of cutting it up. -/
def Obligations.EngineRunReturnsTheDigest : Prop :=
  ∀ (s : State) (a : Alg) (parts : List (List Byte)) (rest : List Command) (d d' : Din),
    (∀ p ∈ parts, p.length ≤ maxBufferLength) → parts.flatten.length ≤ a.countMax →
    s.port = ⟨encode (.eInit a.code), d⟩ ::
      (parts.map fun p => ⟨encode .eUpdate, ⟨some p, 0#32, BitVec.ofNat 32 p.length⟩⟩) ++
      ⟨encode .eFinalize, d'⟩ :: rest →
    ∃ t, Sys2Proof.core.run (parts.length + 2) s = .next t ∧
      t.result = some ⟨.ok, 0, digest a parts.flatten⟩ ∧
      t.slot = .engine ∧ t.engine.alg = a ∧ t.engine.chain = initialChain a ∧ t.engine.pbuf = [] ∧
      t.engine.count = 0 ∧ t.errstat = s.errstat ∧ t.port = rest

/-- R560, R550: from any state, H_INIT with a key, one H_UPDATE for each part of a message and H_FINALIZE return the first
OUTBITS/8 bytes of Hash((K0 ⊕ opad) ‖ Hash((K0 ⊕ ipad) ‖ M)), for every way of cutting the message up. -/
def Obligations.HmacRunReturnsTheFormula : Prop :=
  ∀ (s : State) (a : Alg) (imm : BitVec 16) (k : List Byte) (parts : List (List Byte)) (rest : List Command) (d : Din),
    k.length ≤ maxBufferLength → k.length ≤ s.keyCapacity →
    hmacOutBits a imm % 8 = 0 → hmacOutBits a imm ≤ a.naturalBits →
    (∀ p ∈ parts, p.length ≤ maxBufferLength) → a.bs + parts.flatten.length ≤ a.countMax →
    s.port = ⟨encode (.hInit a.code imm), ⟨some k, 0#32, BitVec.ofNat 32 k.length⟩⟩ ::
      (parts.map fun p => ⟨encode .hUpdate, ⟨some p, 0#32, BitVec.ofNat 32 p.length⟩⟩) ++
      ⟨encode .hFinalize, d⟩ :: rest →
    ∃ t, Sys2Proof.core.run (parts.length + 2) s = .next t ∧
      t.result = some ⟨.ok, 0, (hmacFormula a k parts.flatten).take (hmacOutBits a imm / 8)⟩ ∧
      t.slot = .hmac ∧ t.key = k ∧ t.errstat = s.errstat ∧ t.port = rest

/-- R163, R257, R655: E.HASH returns the digest of the slice where the slice is legal; otherwise (a NULL buffer, a negative
offset or length, a slice past the buffer's end) it stops at the E_UPDATE, whose result stands, the engine being constructed
and empty. -/
def Obligations.EHashReturnsTheDigestOrStops : Prop :=
  ∀ (s : State) (a : Alg) (buf : AsmBuf) (off len : Int),
    -2 ^ 31 ≤ off → off < 2 ^ 31 → -2 ^ 31 ≤ len → len < 2 ^ 31 →
    (∀ b, buf.bytes? = some b → 0 ≤ off → 0 ≤ len → off + len ≤ b.length →
      ∃ t, runLine (.eHash a buf off len) s = .next t ∧
        t.result = some ⟨.ok, 0, digest a ((b.drop off.toNat).take len.toNat)⟩) ∧
    (buf.bytes? = none →
      ∃ t, runLine (.eHash a buf off len) s = .next t ∧ t.result = some ⟨.null, 0, []⟩ ∧
        t.slot = .engine ∧ t.engine.chain = initialChain a ∧ t.engine.pbuf = [] ∧ t.engine.count = 0) ∧
    (∀ b, buf.bytes? = some b → off < 0 ∨ len < 0 →
      ∃ t, runLine (.eHash a buf off len) s = .next t ∧ t.result = some ⟨.negative, 0, []⟩ ∧
        t.slot = .engine ∧ t.engine.chain = initialChain a ∧ t.engine.pbuf = [] ∧ t.engine.count = 0) ∧
    (∀ b, buf.bytes? = some b → 0 ≤ off → 0 ≤ len → off + len > b.length →
      ∃ t, runLine (.eHash a buf off len) s = .next t ∧ t.result = some ⟨.range, 0, []⟩ ∧
        t.slot = .engine ∧ t.engine.chain = initialChain a ∧ t.engine.pbuf = [] ∧ t.engine.count = 0)

/-- R561 (d), R555: chunk invariance holds for H_UPDATE: one H_UPDATE for each part of a byte string leaves the block, but
for the operand and the result of the last command, as one H_UPDATE of the whole does, and H_FINALIZE then returns the same
tag. -/
def Obligations.HUpdatesInPartsAreOneHUpdate : Prop :=
  ∀ (s : State) (parts : List (List Byte)) (rest : List Command),
    s.slot = .hmac → s.engine.plen < s.engine.bs → parts.flatten.length ≤ maxBufferLength →
    s.engine.count + parts.flatten.length ≤ s.engine.alg.countMax →
    ∃ t u v w r,
      Sys2Proof.core.run parts.length { s with port :=
        (parts.map fun p => ⟨encode .hUpdate, ⟨some p, 0#32, BitVec.ofNat 32 p.length⟩⟩) ++ rest } = .next t ∧
      step { s with port :=
        ⟨encode .hUpdate, ⟨some parts.flatten, 0#32, BitVec.ofNat 32 parts.flatten.length⟩⟩ :: rest } = .next u ∧
      u = { t with din := u.din, result := some ⟨.ok, 0, []⟩ } ∧
      exec .hFinalize t = .next v ∧ exec .hFinalize u = .next w ∧ v.result = some r ∧ w.result = some r ∧ r.status = .ok
end

