-- ==== Sys2Proof/Laws/Decode.lean ====
section
/-! SUPPORT. The fields of a packed command word, and the codes of the algorithms and the registers. -/

namespace Sys2Proof

/-- Reading `w` bits from bit `k` of an appended pair, all of them in the low part. -/
theorem extract_append_low {n m : Nat} (x : BitVec n) (y : BitVec m) (k w : Nat) (h : k + w ≤ m) :
    (x ++ y).extractLsb' k w = y.extractLsb' k w := by
  ext i hi
  simp [BitVec.getLsbD_append, show k + i < m by omega]

/-- Reading `w` bits from bit `k` of an appended pair, all of them in the high part. -/
theorem extract_append_high {n m : Nat} (x : BitVec n) (y : BitVec m) (k w : Nat) (h : m ≤ k) :
    (x ++ y).extractLsb' k w = x.extractLsb' (k - m) w := by
  ext i hi
  simp [BitVec.getLsbD_append, show ¬ k + i < m by omega, show k + i - m = k - m + i by omega]

@[simp] theorem cwOpc_packFields (o : BitVec 8) (a : BitVec 4) (n : BitVec 16) : cwOpc (packFields o a n) = o := by
  unfold cwOpc packFields
  rw [extract_append_high _ _ _ _ (by omega), extract_append_high _ _ _ _ (by omega),
    extract_append_high _ _ _ _ (by omega)]
  simp

@[simp] theorem cwAlg_packFields (o : BitVec 8) (a : BitVec 4) (n : BitVec 16) : cwAlg (packFields o a n) = a := by
  unfold cwAlg packFields
  rw [extract_append_high _ _ _ _ (by omega), extract_append_high _ _ _ _ (by omega),
    extract_append_low _ _ _ _ (by omega)]
  simp

@[simp] theorem cwRsv_packFields (o : BitVec 8) (a : BitVec 4) (n : BitVec 16) : cwRsv (packFields o a n) = 0#4 := by
  unfold cwRsv packFields
  rw [extract_append_high _ _ _ _ (by omega), extract_append_low _ _ _ _ (by omega)]
  simp

@[simp] theorem cwImm_packFields (o : BitVec 8) (a : BitVec 4) (n : BitVec 16) : cwImm (packFields o a n) = n := by
  unfold cwImm packFields
  rw [extract_append_low _ _ _ _ (by omega)]
  simp

@[simp] theorem ofCode?_code (a : Alg) : Alg.ofCode? a.code = some a := by cases a <;> rfl

theorem ofCode?_eq_some {c : BitVec 4} {a : Alg} (h : Alg.ofCode? c = some a) : c = a.code := by
  unfold Alg.ofCode? at h
  repeat' split at h
  all_goals first | (cases h; assumption) | cases h

theorem ofCode?_eq_none_iff (c : BitVec 4) : Alg.ofCode? c = none ↔ 7 ≤ c.toNat := by
  obtain ⟨n, hn, rfl⟩ : ∃ n, n < 16 ∧ c = BitVec.ofNat 4 n := ⟨c.toNat, c.isLt, by simp⟩
  interval_cases n <;> decide

@[simp] theorem ofNumber?_number (r : Reg) : Reg.ofNumber? r.number = some r := by cases r <;> rfl

theorem ofNumber?_eq_some {n : BitVec 16} {r : Reg} (h : Reg.ofNumber? n = some r) : n = r.number := by
  unfold Reg.ofNumber? at h
  repeat' split at h
  all_goals first | (cases h; assumption) | cases h

/-! ### Decoding by opcode (R155): each listed OPC has its own decoder, and no other OPC has one -/

theorem decode_eInit {w : W32} (h : cwOpc w = 0x01#8) : decode w = decodeEInit w := by simp [decode, h]
theorem decode_eReset {w : W32} (h : cwOpc w = 0x02#8) : decode w = decodeFixed .eReset w := by simp [decode, h]
theorem decode_eUpdate {w : W32} (h : cwOpc w = 0x03#8) : decode w = decodeFixed .eUpdate w := by simp [decode, h]
theorem decode_eFinalize {w : W32} (h : cwOpc w = 0x04#8) : decode w = decodeFixed .eFinalize w := by simp [decode, h]
theorem decode_eRelease {w : W32} (h : cwOpc w = 0x05#8) : decode w = decodeFixed .eRelease w := by simp [decode, h]
theorem decode_hInit {w : W32} (h : cwOpc w = 0x11#8) : decode w = decodeHInit w := by simp [decode, h]
theorem decode_hSetkey {w : W32} (h : cwOpc w = 0x12#8) : decode w = decodeFixed .hSetkey w := by simp [decode, h]
theorem decode_hUpdate {w : W32} (h : cwOpc w = 0x13#8) : decode w = decodeFixed .hUpdate w := by simp [decode, h]
theorem decode_hFinalize {w : W32} (h : cwOpc w = 0x14#8) : decode w = decodeFixed .hFinalize w := by simp [decode, h]
theorem decode_hRelease {w : W32} (h : cwOpc w = 0x15#8) : decode w = decodeFixed .hRelease w := by simp [decode, h]
theorem decode_hGetkey {w : W32} (h : cwOpc w = 0x16#8) : decode w = decodeFixed .hGetkey w := by simp [decode, h]
theorem decode_rdreg {w : W32} (h : cwOpc w = 0x21#8) : decode w = decodeRdreg w := by simp [decode, h]

/-- R155: the opcodes of the table. -/
abbrev listedOpcodes : List (BitVec 8) :=
  [0x01#8, 0x02#8, 0x03#8, 0x04#8, 0x05#8, 0x11#8, 0x12#8, 0x13#8, 0x14#8, 0x15#8, 0x16#8, 0x21#8]

theorem decode_unlisted {w : W32} (h : cwOpc w ∉ listedOpcodes) : decode w = .error .opcode := by
  simp only [listedOpcodes, List.mem_cons, List.not_mem_nil, or_false, not_or] at h
  simp [decode, h]

/-- R152: a word without RSV bits is its OPC, ALG and IMM. -/
theorem packFields_fields (w : W32) (h : cwRsv w = 0#4) : packFields (cwOpc w) (cwAlg w) (cwImm w) = w := by
  have hw : w = cwOpc w ++ cwAlg w ++ cwRsv w ++ cwImm w := by
    refine BitVec.eq_of_getLsbD_eq fun i hi => ?_
    simp only [cwOpc, cwAlg, cwRsv, cwImm, BitVec.getLsbD_append, BitVec.getLsbD_extractLsb']
    split_ifs with h1 h2 h3
    · simp [h1]
    · rw [show 16 + (i - 16) = i by omega]; simp [h2]
    · rw [show 20 + (i - 16 - 4) = i by omega]; simp [h3]
    · rw [show 24 + (i - 16 - 4 - 4) = i by omega]; simp [show i - 16 - 4 - 4 < 8 by omega]
  conv_rhs => rw [hw]
  rw [h]; rfl

end Sys2Proof
end

