-- ==== Sys2Proof/Laws/Engine.lean ====
section
/-! SUPPORT. What the engine's operations keep and what they write (R250 to R261): the algorithm, the counter, the scratch. -/

namespace Sys2Proof.Machine

/-! ### Parameters (R250) -/

theorem bs_pos (a : Alg) : 0 < a.bs := by cases a <;> decide
theorem ds_lt_bs (a : Alg) : a.ds < a.bs := by cases a <;> decide
theorem engine_bs_pos (e : Engine) : 0 < e.bs := bs_pos e.alg

/-! ### The algorithm is fixed at construction (R55) -/

@[simp] theorem compress_alg (c : Chain) (b : List Byte) : (compress c b).alg = c.alg := by
  cases c <;> simp only [compress, Chain.alg]
@[simp] theorem initialChain_alg (a : Alg) : (initialChain a).alg = a := by cases a <;> rfl
@[simp] theorem engineReset_alg (e : Engine) : (engineReset e).alg = e.alg := by simp [engineReset, Engine.alg]
@[simp] theorem engineConstruct_alg (a : Alg) (e : Engine) : (engineConstruct a e).alg = a := by
  simp [engineConstruct, Engine.alg]
@[simp] theorem compressBlock_alg (e : Engine) (b : List Byte) : (compressBlock e b).alg = e.alg := by
  simp [compressBlock, Engine.alg]
@[simp] theorem compressBlock_bs (e : Engine) (b : List Byte) : (compressBlock e b).bs = e.bs := by simp [Engine.bs]

@[simp] theorem compressBlocks_alg (n : Nat) (e : Engine) (d : List Byte) : (compressBlocks n e d).alg = e.alg := by
  induction n generalizing e d with
  | zero => rfl
  | succ n ih => simp [compressBlocks, ih]

@[simp] theorem drainPending_alg (e : Engine) : (drainPending e).alg = e.alg := by
  unfold drainPending; split
  · exact compress_alg _ _
  · rfl

@[simp] theorem fillPending_alg (e : Engine) (d : List Byte) : (fillPending e d).alg = e.alg := drainPending_alg _
@[simp] theorem bufferRest_alg (e : Engine) (d : List Byte) : (bufferRest e d).alg = e.alg := rfl
@[simp] theorem countInput_alg (e : Engine) (n : Nat) : (countInput e n).alg = e.alg := rfl
@[simp] theorem absorbDirect_alg (e : Engine) (d : List Byte) : (absorbDirect e d).alg = e.alg := by simp [absorbDirect]
@[simp] theorem engineUpdate_alg (e : Engine) (d : List Byte) : (engineUpdate e d).alg = e.alg := by simp [engineUpdate]
@[simp] theorem engineFeed_alg (e : Engine) (b : Byte) : (engineFeed e b).alg = e.alg := drainPending_alg _
@[simp] theorem engineFinish_alg (e : Engine) : (engineFinish e).alg = e.alg := by simp [engineFinish]
@[simp] theorem engineFinalize_alg (e : Engine) : (engineFinalize e).alg = e.alg := by simp [engineFinalize]

/-! ### The counter and the pending buffer (R57, R58) -/

@[simp] theorem compressBlock_count (e : Engine) (b : List Byte) : (compressBlock e b).count = e.count := rfl
@[simp] theorem compressBlock_pbuf (e : Engine) (b : List Byte) : (compressBlock e b).pbuf = e.pbuf := rfl
@[simp] theorem compressBlock_chain (e : Engine) (b : List Byte) : (compressBlock e b).chain = compress e.chain b := rfl
@[simp] theorem compressBlock_scratch (e : Engine) (b : List Byte) : (compressBlock e b).scratch = .cleared := rfl

@[simp] theorem compressBlocks_count (n : Nat) (e : Engine) (d : List Byte) :
    (compressBlocks n e d).count = e.count := by
  induction n generalizing e d with
  | zero => rfl
  | succ n ih => simp [compressBlocks, ih]

@[simp] theorem compressBlocks_pbuf (n : Nat) (e : Engine) (d : List Byte) : (compressBlocks n e d).pbuf = e.pbuf := by
  induction n generalizing e d with
  | zero => rfl
  | succ n ih => simp [compressBlocks, ih]

/-- R59: after at least one compression the scratch is clear. -/
theorem compressBlocks_scratch {n : Nat} (h : 0 < n) (e : Engine) (d : List Byte) :
    (compressBlocks n e d).scratch = .cleared := by
  induction n generalizing e d with
  | zero => omega
  | succ n ih =>
    cases n with
    | zero => rfl
    | succ n => exact ih (by omega) _ _

@[simp] theorem drainPending_count (e : Engine) : (drainPending e).count = e.count := by
  unfold drainPending; split <;> rfl
@[simp] theorem fillPending_count (e : Engine) (d : List Byte) : (fillPending e d).count = e.count := drainPending_count _
@[simp] theorem bufferRest_count (e : Engine) (d : List Byte) : (bufferRest e d).count = e.count := rfl
@[simp] theorem countInput_count (e : Engine) (n : Nat) : (countInput e n).count = e.count + n := rfl
@[simp] theorem absorbDirect_count (e : Engine) (d : List Byte) : (absorbDirect e d).count = e.count := by
  simp [absorbDirect]

/-- R58: an update counts exactly the bytes it consumes. -/
@[simp] theorem engineUpdate_count (e : Engine) (d : List Byte) : (engineUpdate e d).count = e.count + d.length := by
  simp [engineUpdate]

/-- R57: the pending buffer, emptied once it holds a block. -/
theorem drainPending_pbuf (e : Engine) : (drainPending e).pbuf = if e.plen = e.bs then [] else e.pbuf := by
  unfold drainPending; split <;> rfl

/-- R57: a buffer that never passed a block is shorter than one after it is drained. -/
theorem drainPending_plen_lt {e : Engine} (h : e.plen ≤ e.bs) : (drainPending e).plen < e.bs := by
  have hp := engine_bs_pos e
  unfold Engine.plen at *
  rw [drainPending_pbuf]
  split
  · exact hp
  · unfold Engine.plen at *; omega

/-! ### The pads (R61, R551) -/

@[simp] theorem innerPad_length (a : Alg) (k : List Byte) : (innerPad a k).length = (paddedKey a k).length := by
  simp [innerPad]
@[simp] theorem outerPad_length (a : Alg) (k : List Byte) : (outerPad a k).length = (paddedKey a k).length := by
  simp [outerPad]

/-! ### Sizes (R250, R258, R259, R209) -/

theorem lf_lt_bs (a : Alg) : a.lf + 1 < a.bs := by cases a <;> decide

theorem lenField_length (a : Alg) (l : Nat) : (lenField a l).length = a.lf := by
  cases a <;> simp [lenField, pack64le, pack64be, Alg.lf]

/-- R258: the zero bytes of a padding that fits the block of the pending bytes. -/
theorem padZeros_of_fits {a : Alg} {p : Nat} (h : p ≤ a.bs - a.lf - 1) : padZeros a p = a.bs - a.lf - 1 - p := by
  cases a <;> simp only [padZeros, Alg.bs, Alg.lf] at * <;> omega

/-- R258: the zero bytes of a padding that takes a second block. -/
theorem padZeros_of_spills {a : Alg} {p : Nat} (h : a.bs - a.lf - 1 < p) (h2 : p < a.bs) :
    padZeros a p = 2 * a.bs - a.lf - 1 - p := by
  cases a <;> simp only [padZeros, Alg.bs, Alg.lf] at * <;> omega

theorem finalBlocks_length (e : Engine) : (finalBlocks e).length = e.plen + 1 + padZeros e.alg e.plen + e.alg.lf := by
  simp [finalBlocks, padding, lenField_length, Engine.plen]; omega

theorem packWords_length (c : Chain) : (packWords c).length = c.alg.nw * (c.alg.wb / 8) := by
  cases c <;>
    simp [packWords, Words4.toList, Words5.toList, Words8.toList, pack32le, pack32be, pack64be, Chain.alg, Alg.nw, Alg.wb]

/-- R251, R256 (b): H after `n` compressions is the chain over the `n` blocks of the bytes given. -/
theorem compressBlocks_chain (n : Nat) : ∀ (e : Engine) (d : List Byte), (compressBlocks n e d).chain =
    (List.range n).foldl (fun c j => compress c ((d.drop (j * e.bs)).take e.bs)) e.chain := by
  induction n with
  | zero => intro e d; rfl
  | succ n ih =>
    intro e d
    rw [compressBlocks, ih, List.range_succ_eq_map, List.foldl_cons, List.foldl_map]
    simp only [compressBlock_bs, compressBlock_chain, List.drop_drop, Nat.zero_mul, List.drop_zero]
    congr 1; funext c j; congr 3; rw [Nat.succ_eq_add_one, Nat.succ_mul, Nat.add_comm]

/-! ### Setting the key (R551): what it writes and what it leaves -/

@[simp] theorem hmacSetKey_slot (s : State) (k : List Byte) : (hmacSetKey s k).slot = s.slot := rfl
@[simp] theorem hmacSetKey_errstat (s : State) (k : List Byte) : (hmacSetKey s k).errstat = s.errstat := rfl
@[simp] theorem hmacSetKey_engine (s : State) (k : List Byte) : (hmacSetKey s k).engine =
    engineUpdate (engineReset s.engine) (innerPad s.engine.alg k) := rfl
@[simp] theorem hmacSetKey_ipad (s : State) (k : List Byte) : (hmacSetKey s k).ipad = innerPad s.engine.alg k := rfl
@[simp] theorem hmacSetKey_opad (s : State) (k : List Byte) : (hmacSetKey s k).opad = outerPad s.engine.alg k := rfl
@[simp] theorem hmacSetKey_key (s : State) (k : List Byte) : (hmacSetKey s k).key = k := rfl
@[simp] theorem hmacSetKey_outBits (s : State) (k : List Byte) : (hmacSetKey s k).outBits = s.outBits := rfl
@[simp] theorem hmacSetKey_keyCapacity (s : State) (k : List Byte) : (hmacSetKey s k).keyCapacity = s.keyCapacity := rfl
@[simp] theorem hmacSetKey_port (s : State) (k : List Byte) : (hmacSetKey s k).port = s.port := rfl
@[simp] theorem hmacSetKey_din (s : State) (k : List Byte) : (hmacSetKey s k).din = s.din := rfl
@[simp] theorem hmacSetKey_result (s : State) (k : List Byte) : (hmacSetKey s k).result = s.result := rfl

end Sys2Proof.Machine
end

