-- ==== Sys2Proof/Laws/State.lean ====
section
/-! SUPPORT. What each named update of State writes and what it leaves: one lemma per field per update. -/

namespace Sys2Proof.Machine

@[simp] theorem setResult_slot (s : State) (r : Result) : (s.setResult r).slot = s.slot := rfl
@[simp] theorem setResult_errstat (s : State) (r : Result) : (s.setResult r).errstat = s.errstat := rfl
@[simp] theorem setResult_engine (s : State) (r : Result) : (s.setResult r).engine = s.engine := rfl
@[simp] theorem setResult_ipad (s : State) (r : Result) : (s.setResult r).ipad = s.ipad := rfl
@[simp] theorem setResult_opad (s : State) (r : Result) : (s.setResult r).opad = s.opad := rfl
@[simp] theorem setResult_key (s : State) (r : Result) : (s.setResult r).key = s.key := rfl
@[simp] theorem setResult_outBits (s : State) (r : Result) : (s.setResult r).outBits = s.outBits := rfl
@[simp] theorem setResult_keyCapacity (s : State) (r : Result) : (s.setResult r).keyCapacity = s.keyCapacity := rfl
@[simp] theorem setResult_port (s : State) (r : Result) : (s.setResult r).port = s.port := rfl
@[simp] theorem setResult_din (s : State) (r : Result) : (s.setResult r).din = s.din := rfl
@[simp] theorem setResult_result (s : State) (r : Result) : (s.setResult r).result = some r := rfl

@[simp] theorem setErrstat_slot (s : State) (c : Status) : (s.setErrstat c).slot = s.slot := rfl
@[simp] theorem setErrstat_errstat (s : State) (c : Status) : (s.setErrstat c).errstat = c := rfl
@[simp] theorem setErrstat_engine (s : State) (c : Status) : (s.setErrstat c).engine = s.engine := rfl
@[simp] theorem setErrstat_ipad (s : State) (c : Status) : (s.setErrstat c).ipad = s.ipad := rfl
@[simp] theorem setErrstat_opad (s : State) (c : Status) : (s.setErrstat c).opad = s.opad := rfl
@[simp] theorem setErrstat_key (s : State) (c : Status) : (s.setErrstat c).key = s.key := rfl
@[simp] theorem setErrstat_outBits (s : State) (c : Status) : (s.setErrstat c).outBits = s.outBits := rfl
@[simp] theorem setErrstat_keyCapacity (s : State) (c : Status) : (s.setErrstat c).keyCapacity = s.keyCapacity := rfl
@[simp] theorem setErrstat_port (s : State) (c : Status) : (s.setErrstat c).port = s.port := rfl
@[simp] theorem setErrstat_din (s : State) (c : Status) : (s.setErrstat c).din = s.din := rfl
@[simp] theorem setErrstat_result (s : State) (c : Status) : (s.setErrstat c).result = s.result := rfl

@[simp] theorem setSlot_slot (s : State) (k : Slot) : (s.setSlot k).slot = k := rfl
@[simp] theorem setSlot_errstat (s : State) (k : Slot) : (s.setSlot k).errstat = s.errstat := rfl
@[simp] theorem setSlot_engine (s : State) (k : Slot) : (s.setSlot k).engine = s.engine := rfl
@[simp] theorem setSlot_ipad (s : State) (k : Slot) : (s.setSlot k).ipad = s.ipad := rfl
@[simp] theorem setSlot_opad (s : State) (k : Slot) : (s.setSlot k).opad = s.opad := rfl
@[simp] theorem setSlot_key (s : State) (k : Slot) : (s.setSlot k).key = s.key := rfl
@[simp] theorem setSlot_outBits (s : State) (k : Slot) : (s.setSlot k).outBits = s.outBits := rfl
@[simp] theorem setSlot_keyCapacity (s : State) (k : Slot) : (s.setSlot k).keyCapacity = s.keyCapacity := rfl
@[simp] theorem setSlot_port (s : State) (k : Slot) : (s.setSlot k).port = s.port := rfl
@[simp] theorem setSlot_din (s : State) (k : Slot) : (s.setSlot k).din = s.din := rfl
@[simp] theorem setSlot_result (s : State) (k : Slot) : (s.setSlot k).result = s.result := rfl

@[simp] theorem setEngine_slot (s : State) (e : Engine) : (s.setEngine e).slot = s.slot := rfl
@[simp] theorem setEngine_errstat (s : State) (e : Engine) : (s.setEngine e).errstat = s.errstat := rfl
@[simp] theorem setEngine_engine (s : State) (e : Engine) : (s.setEngine e).engine = e := rfl
@[simp] theorem setEngine_ipad (s : State) (e : Engine) : (s.setEngine e).ipad = s.ipad := rfl
@[simp] theorem setEngine_opad (s : State) (e : Engine) : (s.setEngine e).opad = s.opad := rfl
@[simp] theorem setEngine_key (s : State) (e : Engine) : (s.setEngine e).key = s.key := rfl
@[simp] theorem setEngine_outBits (s : State) (e : Engine) : (s.setEngine e).outBits = s.outBits := rfl
@[simp] theorem setEngine_keyCapacity (s : State) (e : Engine) : (s.setEngine e).keyCapacity = s.keyCapacity := rfl
@[simp] theorem setEngine_port (s : State) (e : Engine) : (s.setEngine e).port = s.port := rfl
@[simp] theorem setEngine_din (s : State) (e : Engine) : (s.setEngine e).din = s.din := rfl
@[simp] theorem setEngine_result (s : State) (e : Engine) : (s.setEngine e).result = s.result := rfl

@[simp] theorem setKey_slot (s : State) (k i o : List Byte) : (s.setKey k i o).slot = s.slot := rfl
@[simp] theorem setKey_errstat (s : State) (k i o : List Byte) : (s.setKey k i o).errstat = s.errstat := rfl
@[simp] theorem setKey_engine (s : State) (k i o : List Byte) : (s.setKey k i o).engine = s.engine := rfl
@[simp] theorem setKey_ipad (s : State) (k i o : List Byte) : (s.setKey k i o).ipad = i := rfl
@[simp] theorem setKey_opad (s : State) (k i o : List Byte) : (s.setKey k i o).opad = o := rfl
@[simp] theorem setKey_key (s : State) (k i o : List Byte) : (s.setKey k i o).key = k := rfl
@[simp] theorem setKey_outBits (s : State) (k i o : List Byte) : (s.setKey k i o).outBits = s.outBits := rfl
@[simp] theorem setKey_keyCapacity (s : State) (k i o : List Byte) : (s.setKey k i o).keyCapacity = s.keyCapacity := rfl
@[simp] theorem setKey_port (s : State) (k i o : List Byte) : (s.setKey k i o).port = s.port := rfl
@[simp] theorem setKey_din (s : State) (k i o : List Byte) : (s.setKey k i o).din = s.din := rfl
@[simp] theorem setKey_result (s : State) (k i o : List Byte) : (s.setKey k i o).result = s.result := rfl

@[simp] theorem setOutBits_slot (s : State) (n : Nat) : (s.setOutBits n).slot = s.slot := rfl
@[simp] theorem setOutBits_errstat (s : State) (n : Nat) : (s.setOutBits n).errstat = s.errstat := rfl
@[simp] theorem setOutBits_engine (s : State) (n : Nat) : (s.setOutBits n).engine = s.engine := rfl
@[simp] theorem setOutBits_ipad (s : State) (n : Nat) : (s.setOutBits n).ipad = s.ipad := rfl
@[simp] theorem setOutBits_opad (s : State) (n : Nat) : (s.setOutBits n).opad = s.opad := rfl
@[simp] theorem setOutBits_key (s : State) (n : Nat) : (s.setOutBits n).key = s.key := rfl
@[simp] theorem setOutBits_outBits (s : State) (n : Nat) : (s.setOutBits n).outBits = n := rfl
@[simp] theorem setOutBits_keyCapacity (s : State) (n : Nat) : (s.setOutBits n).keyCapacity = s.keyCapacity := rfl
@[simp] theorem setOutBits_port (s : State) (n : Nat) : (s.setOutBits n).port = s.port := rfl
@[simp] theorem setOutBits_din (s : State) (n : Nat) : (s.setOutBits n).din = s.din := rfl
@[simp] theorem setOutBits_result (s : State) (n : Nat) : (s.setOutBits n).result = s.result := rfl

@[simp] theorem setPort_slot (s : State) (d : Din) (r : List Command) : (s.setPort d r).slot = s.slot := rfl
@[simp] theorem setPort_errstat (s : State) (d : Din) (r : List Command) : (s.setPort d r).errstat = s.errstat := rfl
@[simp] theorem setPort_engine (s : State) (d : Din) (r : List Command) : (s.setPort d r).engine = s.engine := rfl
@[simp] theorem setPort_ipad (s : State) (d : Din) (r : List Command) : (s.setPort d r).ipad = s.ipad := rfl
@[simp] theorem setPort_opad (s : State) (d : Din) (r : List Command) : (s.setPort d r).opad = s.opad := rfl
@[simp] theorem setPort_key (s : State) (d : Din) (r : List Command) : (s.setPort d r).key = s.key := rfl
@[simp] theorem setPort_outBits (s : State) (d : Din) (r : List Command) : (s.setPort d r).outBits = s.outBits := rfl
@[simp] theorem setPort_keyCapacity (s : State) (d : Din) (r : List Command) : (s.setPort d r).keyCapacity = s.keyCapacity := rfl
@[simp] theorem setPort_port (s : State) (d : Din) (r : List Command) : (s.setPort d r).port = r := rfl
@[simp] theorem setPort_din (s : State) (d : Din) (r : List Command) : (s.setPort d r).din = d := rfl
@[simp] theorem setPort_result (s : State) (d : Din) (r : List Command) : (s.setPort d r).result = s.result := rfl

@[simp] theorem issue_slot (s : State) (c : Command) : (s.issue c).slot = s.slot := rfl
@[simp] theorem issue_errstat (s : State) (c : Command) : (s.issue c).errstat = s.errstat := rfl
@[simp] theorem issue_engine (s : State) (c : Command) : (s.issue c).engine = s.engine := rfl
@[simp] theorem issue_ipad (s : State) (c : Command) : (s.issue c).ipad = s.ipad := rfl
@[simp] theorem issue_opad (s : State) (c : Command) : (s.issue c).opad = s.opad := rfl
@[simp] theorem issue_key (s : State) (c : Command) : (s.issue c).key = s.key := rfl
@[simp] theorem issue_outBits (s : State) (c : Command) : (s.issue c).outBits = s.outBits := rfl
@[simp] theorem issue_keyCapacity (s : State) (c : Command) : (s.issue c).keyCapacity = s.keyCapacity := rfl
@[simp] theorem issue_port (s : State) (c : Command) : (s.issue c).port = s.port ++ [c] := rfl
@[simp] theorem issue_din (s : State) (c : Command) : (s.issue c).din = s.din := rfl
@[simp] theorem issue_result (s : State) (c : Command) : (s.issue c).result = s.result := rfl

@[simp] theorem issueFirst_slot (s : State) (c : Command) : (s.issueFirst c).slot = s.slot := rfl
@[simp] theorem issueFirst_errstat (s : State) (c : Command) : (s.issueFirst c).errstat = s.errstat := rfl
@[simp] theorem issueFirst_engine (s : State) (c : Command) : (s.issueFirst c).engine = s.engine := rfl
@[simp] theorem issueFirst_ipad (s : State) (c : Command) : (s.issueFirst c).ipad = s.ipad := rfl
@[simp] theorem issueFirst_opad (s : State) (c : Command) : (s.issueFirst c).opad = s.opad := rfl
@[simp] theorem issueFirst_key (s : State) (c : Command) : (s.issueFirst c).key = s.key := rfl
@[simp] theorem issueFirst_outBits (s : State) (c : Command) : (s.issueFirst c).outBits = s.outBits := rfl
@[simp] theorem issueFirst_keyCapacity (s : State) (c : Command) : (s.issueFirst c).keyCapacity = s.keyCapacity := rfl
@[simp] theorem issueFirst_port (s : State) (c : Command) : (s.issueFirst c).port = c :: s.port := rfl
@[simp] theorem issueFirst_din (s : State) (c : Command) : (s.issueFirst c).din = s.din := rfl
@[simp] theorem issueFirst_result (s : State) (c : Command) : (s.issueFirst c).result = s.result := rfl

@[simp] theorem powerOnReset_slot (s : State) : s.powerOnReset.slot = .empty := rfl
@[simp] theorem powerOnReset_errstat (s : State) : s.powerOnReset.errstat = .ok := rfl
@[simp] theorem powerOnReset_engine (s : State) : s.powerOnReset.engine = .zero := rfl
@[simp] theorem powerOnReset_ipad (s : State) : s.powerOnReset.ipad = padZero := rfl
@[simp] theorem powerOnReset_opad (s : State) : s.powerOnReset.opad = padZero := rfl
@[simp] theorem powerOnReset_key (s : State) : s.powerOnReset.key = [] := rfl
@[simp] theorem powerOnReset_outBits (s : State) : s.powerOnReset.outBits = 0 := rfl
@[simp] theorem powerOnReset_keyCapacity (s : State) : s.powerOnReset.keyCapacity = s.keyCapacity := rfl
@[simp] theorem powerOnReset_port (s : State) : s.powerOnReset.port = [] := rfl
@[simp] theorem powerOnReset_din (s : State) : s.powerOnReset.din = .absent := rfl
@[simp] theorem powerOnReset_result (s : State) : s.powerOnReset.result = none := rfl

/-! The last of two writes of one element stands. -/

@[simp] theorem setResult_setResult (s : State) (r r' : Result) : (s.setResult r).setResult r' = s.setResult r' := rfl
@[simp] theorem setEngine_setEngine (s : State) (e e' : Engine) : (s.setEngine e).setEngine e' = s.setEngine e' := rfl
@[simp] theorem setEngine_self (s : State) : s.setEngine s.engine = s := rfl

end Sys2Proof.Machine
end

