-- ==== Sys2Proof/Laws/Ops.lean ====
section
/-! SUPPORT. What each shared operation can do, said once: the checks (R651 to R657), failing (R652), completing (R154),
clearing (R263), and one step (R106). -/

namespace Sys2Proof.Machine

/-! ### The order of the checks (R651) -/

@[simp] theorem firstFailure_nil (s : State) : firstFailure [] s = none := rfl

theorem firstFailure_cons (c : Check) (cs : List Check) (s : State) :
    firstFailure (c :: cs) s = (c s).or (firstFailure cs s) := by
  cases h : c s <;> simp [firstFailure, h]

theorem firstFailure_append (cs ds : List Check) (s : State) :
    firstFailure (cs ++ ds) s = (firstFailure cs s).or (firstFailure ds s) := by
  induction cs with
  | nil => simp
  | cons c cs ih => rw [List.cons_append, firstFailure_cons, firstFailure_cons, ih, Option.or_assoc]

theorem firstFailure_eq_none (cs : List Check) (s : State) : firstFailure cs s = none ↔ ∀ c ∈ cs, c s = none := by
  simp [firstFailure, List.findSome?_eq_none_iff]

/-! ### Running a command (R651, R652, R154) -/

theorem runChecked_pass {cs : List Check} {f : State → Answer} {s : State} (h : firstFailure cs s = none) :
    runChecked cs f s = f s := by simp [runChecked, h]

theorem runChecked_fail {cs : List Check} {f : State → Answer} {s : State} {code : Status}
    (h : firstFailure cs s = some code) : runChecked cs f s = .next (failed code s) := by simp [runChecked, h, fail]

/-- R651: a checked command fails with the first failing check, or has its effect. -/
theorem runChecked_cases {cs : List Check} {f : State → Answer} {s t : State} (h : runChecked cs f s = .next t) :
    (∃ code, firstFailure cs s = some code ∧ t = failed code s) ∨ (firstFailure cs s = none ∧ f s = .next t) := by
  cases hf : firstFailure cs s with
  | none => exact .inr ⟨rfl, (runChecked_pass hf).symm.trans h⟩
  | some code =>
    rw [runChecked_fail hf] at h
    exact .inl ⟨code, rfl, (Host.Outcome.next.inj h).symm⟩

/-- R154: completing returns the result and changes nothing else. -/
theorem complete_next {v : W32} {d : List Byte} {s t : State} (h : complete v d s = .next t) :
    t = s.setResult ⟨.ok, v, d⟩ := (Host.Outcome.next.inj h).symm

@[simp] theorem complete_eq (v : W32) (d : List Byte) (s : State) : complete v d s = .next (s.setResult ⟨.ok, v, d⟩) := rfl
@[simp] theorem fail_eq (c : Status) (s : State) : fail c s = .next (failed c s) := rfl
@[simp] theorem illegalCommand_eq (s : State) : illegalCommand s = .next (failed .illegal s) := rfl

/-! ### Failing (R652) -/

@[simp] theorem failed_slot (c : Status) (s : State) : (failed c s).slot = s.slot := rfl
@[simp] theorem failed_errstat (c : Status) (s : State) : (failed c s).errstat = captureError s.errstat c := rfl
@[simp] theorem failed_engine (c : Status) (s : State) : (failed c s).engine = s.engine := rfl
@[simp] theorem failed_ipad (c : Status) (s : State) : (failed c s).ipad = s.ipad := rfl
@[simp] theorem failed_opad (c : Status) (s : State) : (failed c s).opad = s.opad := rfl
@[simp] theorem failed_key (c : Status) (s : State) : (failed c s).key = s.key := rfl
@[simp] theorem failed_outBits (c : Status) (s : State) : (failed c s).outBits = s.outBits := rfl
@[simp] theorem failed_keyCapacity (c : Status) (s : State) : (failed c s).keyCapacity = s.keyCapacity := rfl
@[simp] theorem failed_port (c : Status) (s : State) : (failed c s).port = s.port := rfl
@[simp] theorem failed_din (c : Status) (s : State) : (failed c s).din = s.din := rfl
@[simp] theorem failed_result (c : Status) (s : State) : (failed c s).result = some ⟨c, 0, []⟩ := rfl

@[simp] theorem captureError_ok (c : Status) : captureError .ok c = c := by simp [captureError]
theorem captureError_of_ne {e : Status} (h : e ≠ .ok) (c : Status) : captureError e c = e := by simp [captureError, h]

/-! ### The checks (R654 to R657): when each passes and what it raises -/

theorem checkReleased_pass (s : State) : checkReleased s = none ↔ s.slot ≠ .empty := by simp [checkReleased]
theorem checkEngineKind_pass (s : State) : checkEngineKind s = none ↔ s.slot ≠ .hmac := by simp [checkEngineKind]
theorem checkHmacKind_pass (s : State) : checkHmacKind s = none ↔ s.slot ≠ .engine := by simp [checkHmacKind]
theorem checkNull_pass (s : State) : checkNull s = none ↔ ∃ b, s.din.buf = some b := by
  cases h : s.din.buf <;> simp [checkNull, Din.isNull, h]
theorem checkNegative_pass (s : State) : checkNegative s = none ↔ 0 ≤ s.din.offset ∧ 0 ≤ s.din.length := by
  simp [checkNegative, Din.isNegative]
theorem checkRange_pass (s : State) :
    checkRange s = none ↔ s.din.offset + s.din.length ≤ (s.din.buf.getD []).length := by
  simp [checkRange, Din.isOutOfRange]
theorem checkKeySize_pass (s : State) : checkKeySize s = none ↔ s.din.length ≤ s.keyCapacity := by simp [checkKeySize]
theorem checkLength_pass (s : State) :
    checkLength s = none ↔ (s.engine.count : Int) + s.din.length ≤ s.engine.alg.countMax := by simp [checkLength]
theorem checkOutBits_pass (a : Alg) (imm : BitVec 16) (s : State) :
    checkOutBits a imm s = none ↔ hmacOutBits a imm % 8 = 0 ∧ hmacOutBits a imm ≤ a.naturalBits := by
  simp [checkOutBits]

/-- R654: the checks of an engine command pass exactly while SLOT = ENGINE. -/
theorem engineChecks_pass (s : State) : firstFailure engineChecks s = none ↔ s.slot = .engine := by
  rw [firstFailure_eq_none]
  cases h : s.slot <;> simp [engineChecks, checkReleased, checkEngineKind, h]

/-- R654: the checks of an HMAC command pass exactly while SLOT = HMAC. -/
theorem hmacChecks_pass (s : State) : firstFailure hmacChecks s = none ↔ s.slot = .hmac := by
  rw [firstFailure_eq_none]
  cases h : s.slot <;> simp [hmacChecks, checkReleased, checkHmacKind, h]

/-- R655: the slice checks pass exactly when BUF[off..off+len) is a slice of BUF. -/
theorem sliceChecks_pass (s : State) : firstFailure sliceChecks s = none ↔
    ∃ b, s.din.buf = some b ∧ 0 ≤ s.din.offset ∧ 0 ≤ s.din.length ∧ s.din.offset + s.din.length ≤ b.length := by
  simp only [firstFailure_eq_none, sliceChecks, List.mem_cons, List.not_mem_nil, or_false, forall_eq_or_imp, forall_eq,
    checkNull_pass, checkNegative_pass, checkRange_pass]
  constructor
  · rintro ⟨⟨b, hb⟩, ⟨h1, h2⟩, h3⟩
    exact ⟨b, hb, h1, h2, by simpa [hb] using h3⟩
  · rintro ⟨b, hb, h1, h2, h3⟩
    exact ⟨⟨b, hb⟩, ⟨h1, h2⟩, by simpa [hb] using h3⟩

/-! ### Clearing (R263, R254, R557) -/

theorem zeroize_of_hmac {s : State} (h : s.slot = .hmac) :
    zeroize s = { s with engine := engineZeroize s.engine, ipad := padZero, opad := padZero, key := [], outBits := 0 } := by
  simp [zeroize, h, State.setEngine, State.setKey, State.setOutBits]

theorem zeroize_of_not_hmac {s : State} (h : s.slot ≠ .hmac) :
    zeroize s = { s with engine := engineZeroize s.engine } := by simp [zeroize, h, State.setEngine]

@[simp] theorem zeroize_slot (s : State) : (zeroize s).slot = s.slot := by unfold zeroize; split <;> rfl
@[simp] theorem zeroize_errstat (s : State) : (zeroize s).errstat = s.errstat := by unfold zeroize; split <;> rfl
@[simp] theorem zeroize_engine (s : State) : (zeroize s).engine = engineZeroize s.engine := by
  unfold zeroize; split <;> rfl
@[simp] theorem zeroize_keyCapacity (s : State) : (zeroize s).keyCapacity = s.keyCapacity := by
  unfold zeroize; split <;> rfl
@[simp] theorem zeroize_port (s : State) : (zeroize s).port = s.port := by unfold zeroize; split <;> rfl
@[simp] theorem zeroize_din (s : State) : (zeroize s).din = s.din := by unfold zeroize; split <;> rfl
@[simp] theorem zeroize_result (s : State) : (zeroize s).result = s.result := by unfold zeroize; split <;> rfl

/-- R254, R553: what an INIT keeps of the instance it replaces is its scratch alone, which is clear between commands. -/
theorem discardInstance_cases (s : State) :
    (s.slot = .empty ∧ discardInstance s = s) ∨ (s.slot ≠ .empty ∧ discardInstance s = zeroize s) := by
  by_cases h : s.slot = .empty <;> simp [discardInstance, h]

/-! ### One step (R106, R108) -/

theorem execCommand_ok {run : Instr → State → Answer} {c : Command} {i : Instr} (h : decode c.cw = .ok i)
    (rest : List Command) (s : State) : execCommand run c rest s = run i (s.setPort c.din rest) := by
  simp [execCommand, h]

theorem execCommand_illegal {run : Instr → State → Answer} {c : Command} {r : Illegal} (h : decode c.cw = .error r)
    (rest : List Command) (s : State) :
    execCommand run c rest s = .next (failed .illegal (s.setPort c.din rest)) := by
  simp [execCommand, h]

/-- R106, R667: a step of a block holds its state, runs a command of the table, or fails an illegal word. -/
theorem step_cases {s t : State} (h : step s = .next t) :
    (s.port = [] ∧ t = s) ∨
    (∃ c rest i, s.port = c :: rest ∧ decode c.cw = .ok i ∧ exec i (s.setPort c.din rest) = .next t) ∨
    (∃ c rest r, s.port = c :: rest ∧ decode c.cw = .error r ∧ t = failed .illegal (s.setPort c.din rest)) := by
  unfold step at h
  split at h
  · exact .inl ⟨‹_›, (Host.Outcome.next.inj h).symm⟩
  · rename_i c rest hp
    cases hd : decode c.cw with
    | ok i => exact .inr (.inl ⟨c, rest, i, hp, hd, (execCommand_ok hd rest s).symm.trans h⟩)
    | error r =>
      rw [execCommand_illegal hd] at h
      exact .inr (.inr ⟨c, rest, r, hp, hd, (Host.Outcome.next.inj h).symm⟩)

/-- A run of one step more goes on from the state that step leaves. -/
theorem run_succ (m : Host.Core) {k : Nat} {s t : m.State} (h : m.step s = .next t) : m.run (k + 1) s = m.run k t := by
  simp only [Host.Core.run, h]

end Sys2Proof.Machine
end

