-- ==== Sys2Proof/Laws/Commands.lean ====
section
/-! SUPPORT. What a command can do, said once: it fails with a code, or it is one of the twelve and has its effect. -/

namespace Sys2Proof.Machine

/-! ### The codes of the checks (R650, R654 to R657) -/

theorem checkReleased_code {s : State} {c : Status} (h : checkReleased s = some c) : c = .released := by
  unfold checkReleased at h; split at h <;> cases h; rfl
theorem checkEngineKind_code {s : State} {c : Status} (h : checkEngineKind s = some c) : c = .kind := by
  unfold checkEngineKind at h; split at h <;> cases h; rfl
theorem checkHmacKind_code {s : State} {c : Status} (h : checkHmacKind s = some c) : c = .kind := by
  unfold checkHmacKind at h; split at h <;> cases h; rfl
theorem checkNull_code {s : State} {c : Status} (h : checkNull s = some c) : c = .null := by
  unfold checkNull at h; split at h <;> cases h; rfl
theorem checkNegative_code {s : State} {c : Status} (h : checkNegative s = some c) : c = .negative := by
  unfold checkNegative at h; split at h <;> cases h; rfl
theorem checkRange_code {s : State} {c : Status} (h : checkRange s = some c) : c = .range := by
  unfold checkRange at h; split at h <;> cases h; rfl
theorem checkOutBits_code {a : Alg} {imm : BitVec 16} {s : State} {c : Status} (h : checkOutBits a imm s = some c) :
    c = .config := by
  unfold checkOutBits at h; split at h <;> cases h; rfl
theorem checkKeySize_code {s : State} {c : Status} (h : checkKeySize s = some c) : c = .config := by
  unfold checkKeySize at h; split at h <;> cases h; rfl
theorem checkLength_code {s : State} {c : Status} (h : checkLength s = some c) : c = .length := by
  unfold checkLength at h; split at h <;> cases h; rfl

theorem firstFailure_some {cs : List Check} {s : State} {c : Status} (h : firstFailure cs s = some c) :
    ∃ k ∈ cs, k s = some c := List.exists_of_findSome?_eq_some h

theorem firstFailure_append_none {cs ds : List Check} {s : State} :
    firstFailure (cs ++ ds) s = none ↔ firstFailure cs s = none ∧ firstFailure ds s = none := by
  rw [firstFailure_append]; cases firstFailure cs s <;> simp

theorem firstFailure_single {c : Check} {s : State} : firstFailure [c] s = c s := by
  rw [firstFailure_cons, firstFailure_nil, Option.or_none]

/-- R651, R654: a command of an engine with further checks passes them all exactly while SLOT = ENGINE and they pass. -/
theorem engineChecks_append {cs : List Check} {s : State} :
    firstFailure (engineChecks ++ cs) s = none ↔ s.slot = .engine ∧ firstFailure cs s = none := by
  rw [firstFailure_append_none, engineChecks_pass]

/-- R651, R654: the same of an HMAC command. -/
theorem hmacChecks_append {cs : List Check} {s : State} :
    firstFailure (hmacChecks ++ cs) s = none ↔ s.slot = .hmac ∧ firstFailure cs s = none := by
  rw [firstFailure_append_none, hmacChecks_pass]

/-- R654: the instance checks fail first on an empty slot, and then on the other kind of instance. -/
theorem engineChecks_empty {s : State} (h : s.slot = .empty) (cs : List Check) :
    firstFailure (engineChecks ++ cs) s = some .released := by
  simp [engineChecks, firstFailure_cons, checkReleased, h]
theorem engineChecks_hmac {s : State} (h : s.slot = .hmac) (cs : List Check) :
    firstFailure (engineChecks ++ cs) s = some .kind := by
  simp [engineChecks, firstFailure_cons, checkReleased, checkEngineKind, h]
theorem hmacChecks_empty {s : State} (h : s.slot = .empty) (cs : List Check) :
    firstFailure (hmacChecks ++ cs) s = some .released := by
  simp [hmacChecks, firstFailure_cons, checkReleased, h]
theorem hmacChecks_engine {s : State} (h : s.slot = .engine) (cs : List Check) :
    firstFailure (hmacChecks ++ cs) s = some .kind := by
  simp [hmacChecks, firstFailure_cons, checkReleased, checkHmacKind, h]

/-! ### The slice (R655) -/

theorem sliceChecks_null {s : State} (h : s.din.buf = none) (cs : List Check) :
    firstFailure (sliceChecks ++ cs) s = some .null := by
  simp [sliceChecks, firstFailure_cons, checkNull, Din.isNull, h]

theorem sliceChecks_negative {s : State} {b : List Byte} (h : s.din.buf = some b)
    (hn : s.din.off.toInt < 0 ∨ s.din.len.toInt < 0) (cs : List Check) :
    firstFailure (sliceChecks ++ cs) s = some .negative := by
  have h1 : checkNull s = none := (checkNull_pass s).2 ⟨b, h⟩
  have h2 : checkNegative s = some .negative := by
    have : s.din.isNegative = true := Bool.or_eq_true_iff.2 (hn.imp (fun h => decide_eq_true h) fun h => decide_eq_true h)
    simp [checkNegative, this]
  simp only [sliceChecks, List.cons_append, firstFailure_cons, h1, h2]; rfl

theorem sliceChecks_range {s : State} {b : List Byte} (h : s.din.buf = some b) (h0 : 0 ≤ s.din.off.toInt)
    (h1 : 0 ≤ s.din.len.toInt) (hr : s.din.off.toInt + s.din.len.toInt > b.length) (cs : List Check) :
    firstFailure (sliceChecks ++ cs) s = some .range := by
  have k1 : checkNull s = none := (checkNull_pass s).2 ⟨b, h⟩
  have k2 : checkNegative s = none := (checkNegative_pass s).2 ⟨h0, h1⟩
  have k3 : checkRange s = some .range := by
    have : s.din.isOutOfRange = true := by
      unfold Din.isOutOfRange; rw [h]; exact decide_eq_true hr
    simp [checkRange, this]
  simp only [sliceChecks, List.cons_append, firstFailure_cons, k1, k2, k3]; rfl

theorem sliceChecks_append {s : State} {b : List Byte} (h : s.din.buf = some b) (h0 : 0 ≤ s.din.off.toInt)
    (h1 : 0 ≤ s.din.len.toInt) (hr : s.din.off.toInt + s.din.len.toInt ≤ b.length) (cs : List Check) :
    firstFailure (sliceChecks ++ cs) s = firstFailure cs s := by
  rw [firstFailure_append, (sliceChecks_pass s).2 ⟨b, h, h0, h1, hr⟩]; rfl

/-- R101: the slice of a buffer. -/
theorem slice_of_buf {s : State} {b : List Byte} (h : s.din.buf = some b) :
    s.din.slice = (b.drop s.din.off.toInt.toNat).take s.din.len.toInt.toNat := by
  simp [Din.slice, h, memRead, Din.offset, Din.length, sext32]

/-! ### What a command can do -/

/-- What a command does in the state `s` where it does not fail: its conditions and the state `t` it leaves. -/
def Effect (i : Instr) (s t : State) : Prop :=
  match i with
  | .eInit c => ∃ a, c = a.code ∧ t = (constructEngine a s).setResult ⟨.ok, 0, []⟩
  | .eReset => s.slot = .engine ∧ t = (s.setEngine (engineReset s.engine)).setResult ⟨.ok, 0, []⟩
  | .eUpdate => s.slot = .engine ∧ firstFailure sliceChecks s = none ∧ checkLength s = none ∧
      t = (s.setEngine (engineUpdate s.engine s.din.slice)).setResult ⟨.ok, 0, []⟩
  | .eFinalize => s.slot = .engine ∧
      t = (s.setEngine (engineFinalize s.engine)).setResult ⟨.ok, 0, engineDigest s.engine⟩
  | .eRelease => s.slot = .engine ∧ t = (releaseInstance s).setResult ⟨.ok, 0, []⟩
  | .hInit c n => ∃ a, c = a.code ∧ firstFailure sliceChecks s = none ∧ checkOutBits a n s = none ∧
      checkKeySize s = none ∧ t = (constructHmac a (hmacOutBits a n) s.din.slice s).setResult ⟨.ok, 0, []⟩
  | .hSetkey => s.slot = .hmac ∧ firstFailure sliceChecks s = none ∧ checkKeySize s = none ∧
      t = (hmacSetKey s s.din.slice).setResult ⟨.ok, 0, []⟩
  | .hUpdate => s.slot = .hmac ∧ firstFailure sliceChecks s = none ∧ checkLength s = none ∧
      t = (s.setEngine (engineUpdate s.engine s.din.slice)).setResult ⟨.ok, 0, []⟩
  | .hFinalize => s.slot = .hmac ∧ t = (s.setEngine (hmacReprime s)).setResult ⟨.ok, 0, hmacTag s⟩
  | .hRelease => s.slot = .hmac ∧ t = (releaseInstance s).setResult ⟨.ok, 0, []⟩
  | .hGetkey => s.slot = .hmac ∧ t = s.setResult ⟨.ok, BitVec.ofNat 32 s.key.length, s.key⟩
  | .rdreg n => ∃ r, n = r.number ∧ (r.needsInstance = true → s.slot ≠ .empty) ∧ t = s.setResult ⟨.ok, regVal r s, []⟩

/-- R651: a checked command fails with a code that is not OK, or its checks pass and it completes. -/
theorem runChecked_complete {cs : List Check} {v : State → W32} {d : State → List Byte} {u : State → State} {s t : State}
    (h : runChecked cs (fun s => complete (v s) (d s) (u s)) s = .next t)
    (hcs : ∀ k ∈ cs, ∀ c, k s = some c → c ≠ .ok) :
    (∃ c, c ≠ .ok ∧ t = failed c s) ∨ (firstFailure cs s = none ∧ t = (u s).setResult ⟨.ok, v s, d s⟩) := by
  rcases runChecked_cases h with ⟨c, hc, rfl⟩ | ⟨hn, h⟩
  · obtain ⟨k, hk, hks⟩ := firstFailure_some hc
    exact .inl ⟨c, hcs k hk c hks, rfl⟩
  · exact .inr ⟨hn, complete_next h⟩

/-- A command fails with a code that is not OK and changes what R652 says, or it has its effect. -/
theorem exec_cases {i : Instr} {s t : State} (h : exec i s = .next t) :
    (∃ c, c ≠ .ok ∧ t = failed c s) ∨ Effect i s t := by
  have hE : ∀ k ∈ engineChecks, ∀ c, k s = some c → c ≠ .ok := by
    intro k hk c hc; simp only [engineChecks, List.mem_cons, List.not_mem_nil, or_false] at hk
    rcases hk with rfl | rfl
    · rw [checkReleased_code hc]; decide
    · rw [checkEngineKind_code hc]; decide
  have hH : ∀ k ∈ hmacChecks, ∀ c, k s = some c → c ≠ .ok := by
    intro k hk c hc; simp only [hmacChecks, List.mem_cons, List.not_mem_nil, or_false] at hk
    rcases hk with rfl | rfl
    · rw [checkReleased_code hc]; decide
    · rw [checkHmacKind_code hc]; decide
  have hS : ∀ k ∈ sliceChecks, ∀ c, k s = some c → c ≠ .ok := by
    intro k hk c hc; simp only [sliceChecks, List.mem_cons, List.not_mem_nil, or_false] at hk
    rcases hk with rfl | rfl | rfl
    · rw [checkNull_code hc]; decide
    · rw [checkNegative_code hc]; decide
    · rw [checkRange_code hc]; decide
  have hL : ∀ k ∈ [checkLength], ∀ c, k s = some c → c ≠ .ok := by
    intro k hk c hc; rw [List.mem_singleton.1 hk] at hc; rw [checkLength_code hc]; decide
  have hK : ∀ k ∈ [checkKeySize], ∀ c, k s = some c → c ≠ .ok := by
    intro k hk c hc; rw [List.mem_singleton.1 hk] at hc; rw [checkKeySize_code hc]; decide
  have app : ∀ {cs ds : List Check}, (∀ k ∈ cs, ∀ c, k s = some c → c ≠ .ok) →
      (∀ k ∈ ds, ∀ c, k s = some c → c ≠ .ok) → ∀ k ∈ cs ++ ds, ∀ c, k s = some c → c ≠ .ok :=
    fun h1 h2 k hk => (List.mem_append.1 hk).elim (h1 k) (h2 k)
  cases i with
  | eInit c =>
    simp only [exec, execEInit] at h
    split at h
    · exact .inl ⟨.illegal, by decide, (Host.Outcome.next.inj h).symm⟩
    · rename_i a ha; exact .inr ⟨a, ofCode?_eq_some ha, complete_next h⟩
  | eReset =>
    simp only [exec, execEReset] at h
    exact (runChecked_complete h hE).imp_right fun ⟨h1, h2⟩ => ⟨(engineChecks_pass s).1 h1, h2⟩
  | eUpdate =>
    simp only [exec, execEUpdate] at h
    refine (runChecked_complete h (app (app hE hS) hL)).imp_right fun ⟨h1, h2⟩ => ?_
    rw [List.append_assoc, engineChecks_append, firstFailure_append_none, firstFailure_single] at h1
    exact ⟨h1.1, h1.2.1, h1.2.2, h2⟩
  | eFinalize =>
    simp only [exec, execEFinalize] at h
    exact (runChecked_complete h hE).imp_right fun ⟨h1, h2⟩ => ⟨(engineChecks_pass s).1 h1, h2⟩
  | eRelease =>
    simp only [exec, execERelease] at h
    exact (runChecked_complete h hE).imp_right fun ⟨h1, h2⟩ => ⟨(engineChecks_pass s).1 h1, h2⟩
  | hInit c n =>
    simp only [exec, execHInit] at h
    split at h
    · exact .inl ⟨.illegal, by decide, (Host.Outcome.next.inj h).symm⟩
    · rename_i a ha
      refine (runChecked_complete h (app hS (app (ds := [checkKeySize]) (cs := [checkOutBits a n]) ?_ hK))).imp_right
        fun ⟨h1, h2⟩ => ?_
      · intro k hk c hc; rw [List.mem_singleton.1 hk] at hc; rw [checkOutBits_code hc]; decide
      · rw [firstFailure_append_none, show [checkOutBits a n, checkKeySize] = [checkOutBits a n] ++ [checkKeySize] from rfl,
          firstFailure_append_none, firstFailure_single, firstFailure_single] at h1
        exact ⟨a, ofCode?_eq_some ha, h1.1, h1.2.1, h1.2.2, h2⟩
  | hSetkey =>
    simp only [exec, execHSetkey] at h
    refine (runChecked_complete h (app (app hH hS) hK)).imp_right fun ⟨h1, h2⟩ => ?_
    rw [List.append_assoc, hmacChecks_append, firstFailure_append_none, firstFailure_single] at h1
    exact ⟨h1.1, h1.2.1, h1.2.2, h2⟩
  | hUpdate =>
    simp only [exec, execHUpdate] at h
    refine (runChecked_complete h (app (app hH hS) hL)).imp_right fun ⟨h1, h2⟩ => ?_
    rw [List.append_assoc, hmacChecks_append, firstFailure_append_none, firstFailure_single] at h1
    exact ⟨h1.1, h1.2.1, h1.2.2, h2⟩
  | hFinalize =>
    simp only [exec, execHFinalize] at h
    exact (runChecked_complete h hH).imp_right fun ⟨h1, h2⟩ => ⟨(hmacChecks_pass s).1 h1, h2⟩
  | hRelease =>
    simp only [exec, execHRelease] at h
    exact (runChecked_complete h hH).imp_right fun ⟨h1, h2⟩ => ⟨(hmacChecks_pass s).1 h1, h2⟩
  | hGetkey =>
    simp only [exec, execHGetkey] at h
    exact (runChecked_complete h hH).imp_right fun ⟨h1, h2⟩ => ⟨(hmacChecks_pass s).1 h1, h2⟩
  | rdreg n =>
    simp only [exec, execRdreg] at h
    split at h
    · exact .inl ⟨.illegal, by decide, (Host.Outcome.next.inj h).symm⟩
    · rename_i r hr
      refine (runChecked_complete h ?_).imp_right fun ⟨h1, h2⟩ => ⟨r, ofNumber?_eq_some hr, fun hn => ?_, h2⟩
      · intro k hk c hc
        unfold regChecks at hk
        split at hk
        · rw [List.mem_singleton.1 hk] at hc; rw [checkReleased_code hc]; decide
        · cases hk
      · rw [regChecks, if_pos hn, firstFailure_single] at h1
        exact (checkReleased_pass s).1 h1

end Sys2Proof.Machine
end

