-- ==== Sys2Proof/Laws/PerInstr.lean ====
section
/-! SUPPORT. Statements made per constructor of Instr (LAWS.json). `RowSelects`: the table's row of the command selects the
command's word (R155: "a command word w selects the row when `w & mask = match`"). -/

namespace Sys2Proof.Laws.RowSelects

/-- The row of R155's table under the command's mnemonic selects the command's word. -/
def Statement (i : Instr) : Prop := ∃ r ∈ opcodeRows, r.mnemonic = i.mnemonic ∧ r.selects (encode i) = true

/-- A row selects the command's word. -/
theorem of_row {i : Instr} (r : OpcodeRow) (hr : r ∈ opcodeRows) (hm : r.mnemonic = i.mnemonic)
    (hs : encode i &&& r.mask = r.value) : Statement i := ⟨r, hr, hm, by simp [OpcodeRow.selects, hs]⟩

/-- Masking acts field by field. -/
theorem packFields_and (o p : BitVec 8) (a b : BitVec 4) (n m : BitVec 16) (z : BitVec 4) :
    packFields o a n &&& (p ++ b ++ z ++ m : BitVec 32) = packFields (o &&& p) (a &&& b) (n &&& m) := by
  have h : (o ++ a ++ 0#4 ++ n : BitVec 32) &&& (p ++ b ++ z ++ m) = (o &&& p) ++ (a &&& b) ++ (0#4 &&& z) ++ (n &&& m) := by
    rw [BitVec.and_append, BitVec.and_append, BitVec.and_append]
  simpa [packFields] using h

theorem eInit (a : BitVec 4) : Statement (.eInit a) :=
  of_row ⟨"E_INIT", 0x01000000#32, 0xFF0FFFFF#32⟩ (by decide) rfl (by revert a; decide)
theorem eReset : Statement .eReset := of_row ⟨"E_RESET", 0x02000000#32, 0xFFFFFFFF#32⟩ (by decide) rfl (by decide)
theorem eUpdate : Statement .eUpdate := of_row ⟨"E_UPDATE", 0x03000000#32, 0xFFFFFFFF#32⟩ (by decide) rfl (by decide)
theorem eFinalize : Statement .eFinalize :=
  of_row ⟨"E_FINALIZE", 0x04000000#32, 0xFFFFFFFF#32⟩ (by decide) rfl (by decide)
theorem eRelease : Statement .eRelease :=
  of_row ⟨"E_RELEASE", 0x05000000#32, 0xFFFFFFFF#32⟩ (by decide) rfl (by decide)
theorem hInit (a : BitVec 4) (n : BitVec 16) : Statement (.hInit a n) := by
  refine of_row ⟨"H_INIT", 0x11000000#32, 0xFF0F0000#32⟩ (by decide) rfl ?_
  have h := packFields_and 0x11#8 0xFF#8 a 0#4 n 0#16 0xF#4
  simpa [encode, packFields] using h
theorem hSetkey : Statement .hSetkey := of_row ⟨"H_SETKEY", 0x12000000#32, 0xFFFFFFFF#32⟩ (by decide) rfl (by decide)
theorem hUpdate : Statement .hUpdate := of_row ⟨"H_UPDATE", 0x13000000#32, 0xFFFFFFFF#32⟩ (by decide) rfl (by decide)
theorem hFinalize : Statement .hFinalize :=
  of_row ⟨"H_FINALIZE", 0x14000000#32, 0xFFFFFFFF#32⟩ (by decide) rfl (by decide)
theorem hRelease : Statement .hRelease :=
  of_row ⟨"H_RELEASE", 0x15000000#32, 0xFFFFFFFF#32⟩ (by decide) rfl (by decide)
theorem hGetkey : Statement .hGetkey :=
  of_row ⟨"H_GETKEY", 0x16000000#32, 0xFFFFFFFF#32⟩ (by decide) rfl (by decide)
theorem rdreg (n : BitVec 16) : Statement (.rdreg n) := by
  refine of_row ⟨"RDREG", 0x21000000#32, 0xFFFF0000#32⟩ (by decide) rfl ?_
  have h := packFields_and 0x21#8 0xFF#8 0#4 0xF#4 n 0#16 0xF#4
  simpa [encode, packFields] using h

end Sys2Proof.Laws.RowSelects
end

