-- ==== Sys2Proof/Tests/Slice0.lean ====
section
/-! SUPPORT. The model's tests. Expected values are the spec's: its worked examples and the tables of
spec/95_test_vectors.md, by the ids they have there. The last part shows, for each obligation with premises, concrete
states and operands that meet them, at the ends of their ranges. -/

namespace Sys2Proof.Tests

open Sys2Proof.Machine

-- One theorem at a time: dozens of kernel evaluations that wait for one another would each hold a thread.
set_option Elab.async false

/-! ### Helpers -/

/-- The bytes of an ASCII string. -/
def ascii (s : String) : List Byte := s.toList.map fun c => BitVec.ofNat 8 c.toNat

/-- The bytes of a string of hexadecimal digits. -/
def hex (s : String) : List Byte := (parseHex? s.toList).getD []

/-- `repeat(b, n)` of R12. -/
def fill (b : Byte) (n : Nat) : List Byte := List.replicate n b

/-- A data operand. -/
def operand (b : List Byte) (off len : Int) : Din := ⟨some b, BitVec.ofInt 32 off, BitVec.ofInt 32 len⟩

/-- A fresh engine of algorithm `a`, at whose port the operand `d` stands. -/
def engineState (a : Alg) (d : Din) : State :=
  { State.reset with slot := .engine, engine := engineConstruct a .zero, din := d }

/-- An HMAC instance of algorithm `a`, output size `n` and key `k`, at whose port the operand `d` stands. -/
def hmacState (a : Alg) (n : Nat) (k : List Byte) (d : Din) : State :=
  { constructHmac a n k State.reset with din := d }

/-- The state a step answers. -/
def nextState? : Answer → Option State
  | .next t => some t
  | .fault _ => none
  | .refused _ => none

/-- The result a step answers with. -/
def resultOf (a : Answer) : Option Result := (nextState? a).bind fun t => t.result

/-- What a test checks of the state a step answers. -/
def after (a : Answer) (p : State → Bool) : Bool :=
  match nextState? a with
  | some t => p t
  | none => false

/-! ### WellFormed refuses the ill-formed terms (R158 (c), (f)) -/

theorem test_wellFormed_refuses_eInit_reserved_code : (Instr.eInit 7#4).wellFormed = false := by decide
theorem test_wellFormed_refuses_hInit_reserved_code : (Instr.hInit 15#4 0#16).wellFormed = false := by decide
theorem test_wellFormed_refuses_unknown_register : (Instr.rdreg 4#16).wellFormed = false := by decide
theorem test_wellFormed_admits_the_last_codes :
    (Instr.eInit 6#4).wellFormed = true ∧ (Instr.hInit 6#4 0xFFFF#16).wellFormed = true ∧
    (Instr.rdreg 0x11#16).wellFormed = true := by decide

/-! ### Decoding: words written out from R151, R155 and R162 -/

theorem test_decode_eInit : decode 0b00000001001000000000000000000000#32 = .ok (.eInit 2) := by decide
theorem test_decode_eReset : decode 0b00000010000000000000000000000000#32 = .ok .eReset := by decide
theorem test_decode_eUpdate : decode 0b00000011000000000000000000000000#32 = .ok .eUpdate := by decide
theorem test_decode_eFinalize : decode 0b00000100000000000000000000000000#32 = .ok .eFinalize := by decide
theorem test_decode_eRelease : decode 0b00000101000000000000000000000000#32 = .ok .eRelease := by decide
theorem test_decode_hInit : decode 0b00010001001000000000000010000000#32 = .ok (.hInit 2 128) := by decide
theorem test_decode_hSetkey : decode 0b00010010000000000000000000000000#32 = .ok .hSetkey := by decide
theorem test_decode_hUpdate : decode 0b00010011000000000000000000000000#32 = .ok .hUpdate := by decide
theorem test_decode_hFinalize : decode 0b00010100000000000000000000000000#32 = .ok .hFinalize := by decide
theorem test_decode_hRelease : decode 0b00010101000000000000000000000000#32 = .ok .hRelease := by decide
theorem test_decode_hGetkey : decode 0b00010110000000000000000000000000#32 = .ok .hGetkey := by decide
theorem test_decode_rdreg : decode 0b00100001000000000000000000010001#32 = .ok (.rdreg 0x11) := by decide

/-- R158 (a) at the ends of the unlisted ranges of OPC, and (b) to (f) (X2 to X7). -/
theorem test_decode_illegal :
    decode 0x00000000 = .error .opcode ∧ decode 0x06000000 = .error .opcode ∧ decode 0x10000000 = .error .opcode ∧
    decode 0x17000000 = .error .opcode ∧ decode 0x20000000 = .error .opcode ∧ decode 0x22000000 = .error .opcode ∧
    decode 0xFF000000 = .error .opcode ∧ decode 0x01010000 = .error .reserved ∧ decode 0x01700000 = .error .algCode ∧
    decode 0x02100000 = .error .algUnused ∧ decode 0x01000001 = .error .immUnused ∧
    decode 0x21000004 = .error .regNumber ∧ decode 0x2100000F = .error .regNumber ∧
    decode 0x21000012 = .error .regNumber := by decide

theorem test_decodeTableWord : decodeTableWord 32 0x11200080 = some (.hInit 2 128) ∧
    decodeTableWord 32 0 = none := by decide

/-! ### Endian units (40_endian.md; N1 to N12) -/

theorem test_endian_units :
    unpack32le (hex "0123456789abcdef") 0 = 0x67452301 ∧ unpack32be (hex "0123456789abcdef") 0 = 0x01234567 ∧
    unpack32le (hex "0123456789abcdef") 4 = 0xEFCDAB89 ∧
    unpack64le (hex "0123456789abcdef") 0 = 0xEFCDAB8967452301 ∧
    unpack64be (hex "0123456789abcdef") 0 = 0x0123456789ABCDEF ∧
    pack32le 0x80636261 = hex "61626380" ∧ pack32be 0x61626380 = hex "61626380" ∧
    pack64le 0x18 = hex "1800000000000000" ∧ pack64be 0x18 = hex "0000000000000018" ∧
    pack64le 0x0123456789ABCDEF = hex "efcdab8967452301" ∧ unpack32be (pack32be 0xDEADBEEF) 0 = 0xDEADBEEF := by
  decide +kernel

/-- R209's example: MD5's initial constants as bytes. -/
theorem test_packWords : packWords (initialChain .md5) = hex "0123456789abcdeffedcba9876543210" := by decide +kernel

/-! ### Tables against the formulas the spec gives -/

/-- R305: MD5's message index and rotation, by round. -/
theorem test_md5_rows_follow_R305 :
    md5Rows.map (fun r => r.k) = (List.range 64).map (fun i =>
      if i < 16 then i else if i < 32 then (5 * i + 1) % 16 else if i < 48 then (3 * i + 5) % 16 else 7 * i % 16) ∧
    md5Rows.map (fun r => r.s) = (List.range 64).map (fun i =>
      (if i < 16 then [7, 12, 17, 22] else if i < 32 then [5, 9, 14, 20] else if i < 48 then [4, 11, 16, 23]
        else [6, 10, 15, 21]).getD (i % 4) 0) := by decide +kernel

/-- R454: the first 32 bits of SHA-512's K[t] for t < 64 are SHA-256's. -/
theorem test_sha256K_is_the_high_half_of_sha512K :
    sha256K = (sha512K.take 64).map (fun k => k.extractLsb' 32 32) ∧ sha512K.length = 80 := by decide +kernel

/-- 93_implementation_defined.md G12: IV(3) is the low halves of IV(5). -/
theorem test_sha224Iv_is_the_low_half_of_sha384Iv :
    sha224Iv.toList = sha384Iv.toList.map (fun k => k.extractLsb' 0 32) := by decide +kernel

/-- R504: RIPEMD-160's constants by round, and 80 rows in each line. -/
theorem test_rmd_constants_follow_R504 :
    rmdLeft.map (fun r => r.k) = (List.range 80).map (fun j =>
      ([0x00000000, 0x5A827999, 0x6ED9EBA1, 0x8F1BBCDC, 0xA953FD4E] : List W32).getD (j / 16) 0) ∧
    rmdRight.map (fun r => r.k) = (List.range 80).map (fun j =>
      ([0x50A28BE6, 0x5C4DD124, 0x6D703EF3, 0x7A6D76E9, 0x00000000] : List W32).getD (j / 16) 0) := by decide +kernel

/-! ### Single compressions of a zero block (95_test_vectors.md section 7) -/

theorem test_K1_md5 : compress (initialChain .md5) (fill 0 64) =
    .md5 ⟨0x031F1DAC, 0x6EA58ED0, 0x1FAB67B7, 0x74317791⟩ := by decide +kernel
theorem test_K3_sha1 : compress (initialChain .sha1) (fill 0 64) =
    .sha1 ⟨0x92B404E5, 0x56588CED, 0x6C1ACD4E, 0xBF053F68, 0x09F73A93⟩ := by decide +kernel
theorem test_K5_sha256 : compress (initialChain .sha256) (fill 0 64) =
    .sha256 ⟨0xDA5698BE, 0x17B9B469, 0x62335799, 0x779FBECA, 0x8CE5D491, 0xC0D26243, 0xBAFEF9EA, 0x1837A9D8⟩ := by
  decide +kernel
theorem test_K7_sha224 : compress (initialChain .sha224) (fill 0 64) =
    .sha224 ⟨0xDB04D220, 0xF639AB8E, 0x8E6B506D, 0xC54481DA, 0x63A5820F, 0x1294A139, 0x8EDCEF0E, 0x17A572BC⟩ := by
  decide +kernel
theorem test_K9_sha512 : compress (initialChain .sha512) (fill 0 128) =
    .sha512 ⟨0xCF7881D5774ACBE8, 0x533362E0FBC78070, 0x0267639D87460EDA, 0x3086CB40E85931B0,
      0x717DC95288A023A3, 0x96BAB2C14CE0B5E0, 0x6FC4FE04EAE33E0B, 0x91F4D80CBD668BEE⟩ := by decide +kernel
theorem test_K11_sha384 : compress (initialChain .sha384) (fill 0 128) =
    .sha384 ⟨0x443D3F698FB0CF23, 0x80A591795CD757AE, 0x4A9600972C395335, 0x98E763D795C489F7,
      0xF765EA4B8193F748, 0x450E49EC00BC838C, 0x871CC1D60F1E68C5, 0x943BBF4C8EA94259⟩ := by decide +kernel
theorem test_K13_rmd160 : compress (initialChain .rmd160) (fill 0 64) =
    .rmd160 ⟨0x187E9BC5, 0x248B9535, 0xD0D6DDCC, 0x987C4E30, 0xCB45101F⟩ := by decide +kernel

/-! ### Digests (section 2): "abc" of every algorithm, and inputs of 55, 56 and 112 bytes -/

theorem test_V3_md5 : digest .md5 (ascii "abc") = hex "900150983cd24fb0d6963f7d28e17f72" := by decide +kernel
theorem test_V22_sha1 : digest .sha1 (ascii "abc") = hex "a9993e364706816aba3e25717850c26c9cd0d89d" := by
  decide +kernel
theorem test_V41_sha256 : digest .sha256 (ascii "abc") =
    hex "ba7816bf8f01cfea414140de5dae2223b00361a396177a9cb410ff61f20015ad" := by decide +kernel
theorem test_V60_sha224 : digest .sha224 (ascii "abc") =
    hex "23097d223405d8228642a477bda255b32aadbce4bda0b3f7e36c9da7" := by decide +kernel
theorem test_R460_sha512 : digest .sha512 (ascii "abc") = hex ("ddaf35a193617abacc417349ae20413112e6fa4e89a97ea2" ++
    "0a9eeee64b55d39a2192992a274fc1a836ba3c23a3feebbd454d4423643ce80e2a9ac94fa54ca49f") := by decide +kernel
theorem test_R461_sha384 : digest .sha384 (ascii "abc") = hex ("cb00753f45a35e8bb5a03d699ac65007272c32ab0eded163" ++
    "1a8b605a43ff5bed8086072ba1e7cc2358baeca134c825a7") := by decide +kernel
theorem test_R510_rmd160 : digest .rmd160 (ascii "abc") = hex "8eb208f7e05d987a9b044a8e98c6b087f15a0bfc" := by
  decide +kernel
theorem test_V10_one_block : digest .md5 (fill 0x61 55) = hex "ef1772b6dff9a122358552954ad0df65" := by decide +kernel
theorem test_V11_two_blocks : digest .md5 (fill 0x61 56) = hex "3b0c8ac703f828b04c6c197006d17218" := by decide +kernel

/-! ### Padding (section 4) -/

/-- P3, P4, P12, P15: the padding at the boundary of one and two blocks, and the largest length field of MD5. -/
theorem test_padding :
    padding ⟨initialChain .md5, fill 0 55, 55, .cleared⟩ = [0x80] ++ hex "b801000000000000" ∧
    padding ⟨initialChain .md5, fill 0 56, 56, .cleared⟩ = [0x80] ++ fill 0 63 ++ hex "c001000000000000" ∧
    padding ⟨initialChain .sha512, fill 0 111, 111, .cleared⟩ = [0x80] ++ fill 0 14 ++ hex "0378" ∧
    padding ⟨initialChain .md5, fill 0 63, 2 ^ 61 - 1, .cleared⟩ = [0x80] ++ fill 0 56 ++ hex "f8ffffffffffffff" := by
  decide +kernel

/-- P8, P16: the big-endian length fields. -/
theorem test_lenField :
    lenField .sha1 (8 * 55) = hex "00000000000001b8" ∧
    lenField .sha512 (8 * (2 ^ 64 - 1)) = hex "0000000000000007fffffffffffffff8" := by decide +kernel

/-! ### One step of each command -/

/-- R254's example: E.INIT SHA256 on an empty block; R111, R150: the step runs the word that withFetchWord presents. -/
theorem test_step_eInit : after (step (State.reset.withFetchWord 32 0x01200000)) (fun t =>
    t.slot == .engine && t.engine == engineConstruct .sha256 .zero && t.errstat == .ok &&
      t.result == some ⟨.ok, 0, []⟩) = true := by decide +kernel
/-- X33: E.INIT replaces an HMAC instance, and nothing of it survives. -/
theorem test_step_eInit_replaces : after (exec (.eInit 0) (hmacState .md5 128 (ascii "k") .absent)) (fun t =>
    t.slot == .engine && t.key == [] && t.outBits == 0 && t.ipad == padZero && t.opad == padZero) = true := by
  decide +kernel
/-- R255's example: after `E.UPDATE "ab"`, E_RESET leaves the IV, no pending byte and COUNT 0. -/
theorem test_step_eReset : after (exec .eReset { engineState .md5 .absent with
    engine := ⟨initialChain .md5, ascii "ab", 2, .cleared⟩ }) (fun t =>
    t.engine == ⟨.md5 ⟨0x67452301, 0xEFCDAB89, 0x98BADCFE, 0x10325476⟩, [], 0, .cleared⟩) = true := by decide +kernel
/-- X1: an instance command on an empty block. -/
theorem test_step_eReset_released : resultOf (exec .eReset State.reset) = some ⟨.released, 0, []⟩ := by decide +kernel
/-- Program 1, step 3: `E.UPDATE "xbc", 1, 2` absorbs "bc". -/
theorem test_step_eUpdate : after (exec .eUpdate { engineState .md5 (operand (ascii "xbc") 1 2) with
    engine := ⟨initialChain .md5, ascii "a", 1, .cleared⟩ }) (fun t =>
    t.engine == ⟨initialChain .md5, ascii "abc", 3, .cleared⟩) = true := by decide +kernel
/-- The length-bound corner of section 6: at COUNT = 2^61 − 4, four bytes are too many and three are not. -/
theorem test_step_eUpdate_length :
    resultOf (exec .eUpdate { engineState .md5 (operand (ascii "abcd") 0 4) with
      engine := ⟨initialChain .md5, fill 0 60, 2 ^ 61 - 4, .cleared⟩ }) = some ⟨.length, 0, []⟩ ∧
    after (exec .eUpdate { engineState .md5 (operand (ascii "abc") 0 3) with
      engine := ⟨initialChain .md5, fill 0 60, 2 ^ 61 - 4, .cleared⟩ }) (fun t =>
      t.engine.count == 2 ^ 61 - 1 && t.engine.plen == 63 && t.result == some ⟨.ok, 0, []⟩) = true := by decide +kernel
/-- R262's example, and the engine is reset. -/
theorem test_step_eFinalize : after (exec .eFinalize { engineState .md5 .absent with
    engine := ⟨initialChain .md5, ascii "abc", 3, .cleared⟩ }) (fun t =>
    t.result == some ⟨.ok, 0, hex "900150983cd24fb0d6963f7d28e17f72"⟩ &&
      t.engine == engineConstruct .md5 .zero) = true := by decide +kernel
/-- X21, its mirror: an engine command on an HMAC instance. -/
theorem test_step_eFinalize_kind :
    resultOf (exec .eFinalize (hmacState .md5 128 (ascii "k") .absent)) = some ⟨.kind, 0, []⟩ := by decide +kernel
/-- R263. -/
theorem test_step_eRelease : after (exec .eRelease (engineState .sha512 .absent)) (fun t =>
    t.slot == .empty && t.engine == .zero && t.result == some ⟨.ok, 0, []⟩) = true := by decide +kernel
/-- R553's example: H.INIT MD5 with the key 0b×16. -/
theorem test_step_hInit : after (exec (.hInit 0 0) { State.reset with din := operand (fill 0x0B 16) 0 16 }) (fun t =>
    t.slot == .hmac && t.outBits == 128 && t.ipad == fill 0x3D 16 ++ fill 0x36 48 &&
      t.opad == fill 0x57 16 ++ fill 0x5C 48 &&
      t.engine == ⟨.md5 ⟨0x038733BE, 0x290C39ED, 0x65703E6F, 0x8D4C823E⟩, [], 64, .cleared⟩) = true := by decide +kernel
/-- X23, X24, X25: the output size, and NULL before CONFIG. -/
theorem test_step_hInit_checks :
    resultOf (exec (.hInit 0 136) { State.reset with din := operand (ascii "k") 0 1 }) = some ⟨.config, 0, []⟩ ∧
    resultOf (exec (.hInit 0 100) { State.reset with din := operand (ascii "k") 0 1 }) = some ⟨.config, 0, []⟩ ∧
    resultOf (exec (.hInit 0 136) { State.reset with din := ⟨none, 0, 0⟩ }) = some ⟨.null, 0, []⟩ := by decide +kernel
/-- Program 2, step 4: re-keying with "Jefe" discards the message and primes E with the new pad. -/
theorem test_step_hSetkey : after (exec .hSetkey { hmacState .md5 128 (fill 0x0B 16) (operand (ascii "Jefe") 0 4) with
    engine := ⟨initialChain .md5, ascii "xyz", 67, .cleared⟩ }) (fun t =>
    t.key == hex "4a656665" && t.ipad.take 4 == hex "7c535053" && t.opad.take 4 == hex "16393a39" &&
      t.engine == ⟨.md5 ⟨0xCB6180E8, 0x2FA83EA8, 0x43278D6C, 0xB9526934⟩, [], 64, .cleared⟩) = true := by decide +kernel
/-- R555's example. -/
theorem test_step_hUpdate :
    after (exec .hUpdate (hmacState .md5 128 (fill 0x0B 16) (operand (ascii "Hi There") 0 8))) (fun t =>
    t.engine.count == 72 && t.engine.plen == 8) = true := by decide +kernel
/-- M5 (R559): the tag of "Hi There" truncated to 96 bits, and the instance primed again. -/
theorem test_step_hFinalize : after (exec .hFinalize { hmacState .md5 96 (fill 0x0B 16) .absent with
    engine := engineUpdate (hmacState .md5 96 (fill 0x0B 16) .absent).engine (ascii "Hi There") }) (fun t =>
    t.result == some ⟨.ok, 0, hex "9294727a3638bb1c13f48ef8"⟩ && t.engine.count == 64 &&
      t.engine.chain == .md5 ⟨0x038733BE, 0x290C39ED, 0x65703E6F, 0x8D4C823E⟩) = true := by decide +kernel
/-- X31's second command. -/
theorem test_step_hRelease : after (exec .hRelease (hmacState .md5 128 (ascii "k") .absent)) (fun t =>
    t == { State.reset with result := some ⟨.ok, 0, []⟩ }) = true := by decide +kernel
/-- X30: a key longer than a block is read back verbatim. -/
theorem test_step_hGetkey : resultOf (exec .hGetkey (hmacState .md5 128 (fill 0xAA 80) .absent)) =
    some ⟨.ok, 80, fill 0xAA 80⟩ := by decide +kernel
/-- R600's example: OUTPUT_SIZE and HASH_SIZE of an HMAC-SHA-256 truncated to 128 bits. -/
theorem test_step_rdreg :
    resultOf (exec (.rdreg 2) (hmacState .sha256 128 (ascii "k") .absent)) = some ⟨.ok, 128, []⟩ ∧
    resultOf (exec (.rdreg 1) (hmacState .sha256 128 (ascii "k") .absent)) = some ⟨.ok, 256, []⟩ := by decide +kernel
/-- Program 3, steps 8 and 9: an illegal word, and the first error stays in ERRSTAT. -/
theorem test_step_illegal :
    after (step ({ State.reset with errstat := .released }.withFetchWord 32 0x06000000)) (fun t =>
      t.result == some ⟨.illegal, 0, []⟩ && t.errstat == .released) = true ∧
    resultOf (exec (.rdreg 0x10) { State.reset with errstat := .released }) = some ⟨.ok, 2, []⟩ := by decide +kernel

/-! ### Assembler lines (R162, R163) -/

theorem test_parse_operands :
    parseLine? "E.UPDATE \"abc\", -1, 3".toList = some (.eUpdate (.ascii ['a', 'b', 'c']) (-1) 3) ∧
    parseLine? "H.INIT MD5, 0, repeat(0x0b,16), 0, 16".toList = some (.hInit .md5 0 (.fill 0x0B 16) 0 16) ∧
    parseLine? "H.SETKEY x\"0b0b\", 0, 2".toList = some (.hSetkey (.hex [0x0B, 0x0B]) 0 2) ∧
    parseLine? "E.UPDATE NULL, 0, 0".toList = some (.eUpdate .null 0 0) := by decide +kernel
theorem test_parse_others :
    parseLine? "RDREG ERRSTAT".toList = some (.rdreg .errstat) ∧
    parseLine? "E.HASH RIPEMD160, \"abc\", 0, 3".toList = some (.eHash .rmd160 (.ascii ['a', 'b', 'c']) 0 3) ∧
    parseLine? "E.RESET".toList = some .eReset ∧ parseLine? "E.INIT 7".toList = none := by decide +kernel

/-! ### The premises of the obligations can be met -/

/-- An engine and an HMAC instance in which nothing has gone wrong. -/
def anEngine : State := engineState .md5 (operand (ascii "abc") 0 3)
/-- The same for an HMAC instance, of the key "k". -/
def anHmac : State := hmacState .md5 128 (ascii "k") (operand (ascii "abc") 0 3)

theorem witness_DecodeOfEncodeIsTheCommand :
    (Instr.eInit 0).wellFormed = true ∧ (Instr.eInit 6).wellFormed = true ∧ Instr.eUpdate.wellFormed = true ∧
    (Instr.hInit 6 0xFFFF).wellFormed = true ∧ (Instr.rdreg 0).wellFormed = true ∧
    (Instr.rdreg 0x11).wellFormed = true := by decide

theorem witness_DecodedWordIsTheCommandsOwn :
    decode 0x0160_0000 = .ok (.eInit 6) ∧ decode 0x1160_FFFF = .ok (.hInit 6 0xFFFF) := by decide

/-- Each condition of R158, and a port whose first word is illegal. -/
theorem witness_IllegalExactlyByTheSixConditions :
    cwOpc 0x22000000 = 0x22 ∧ cwRsv 0x01010000 ≠ 0 ∧ 7 ≤ (cwAlg 0x01700000).toNat ∧ cwAlg 0x02100000 ≠ 0 ∧
    cwImm 0x01000001 ≠ 0 ∧ cwImm 0x21000012 = 0x12 ∧
    (State.reset.withFetchWord 32 0x21000012).port = ⟨0x21000012, .absent⟩ :: [] ∧
    decode 0x21000012 = .error .regNumber := by decide

/-- A row selects the word of its command, and words whose ALG or register number its constraints exclude. -/
theorem witness_OpcodeRowsAgreeWithTheDecoder :
    decode 0x01600000 = .ok (.eInit 6) ∧
    ⟨"E_INIT", 0x01000000, 0xFF0FFFFF⟩ ∈ opcodeRows ∧
    OpcodeRow.selects ⟨"E_INIT", 0x01000000, 0xFF0FFFFF⟩ 0x01700000 = true ∧
    ⟨"RDREG", 0x21000000, 0xFFFF0000⟩ ∈ opcodeRows ∧
    OpcodeRow.selects ⟨"RDREG", 0x21000000, 0xFFFF0000⟩ 0x21000004 = true := by decide

theorem witness_AssemblerLinesEncodeTheirCommands : 65535 < 2 ^ 16 := by decide

theorem witness_StepRunsTheDecodedCommand :
    (State.reset.withFetchWord 32 0x01200000).port = ⟨0x01200000, .absent⟩ :: [] ∧
    decode 0x01200000 = .ok (.eInit 2) := by decide

theorem witness_IdleBlockHoldsItsState : State.reset.port = [] := rfl

theorem witness_StepsOfDifferentBlocksCommute :
    (0 : Nat) ≠ 1 ∧ ∃ t, systemStep 0 (systemIssue 0 ⟨0x01200000, .absent⟩ (systemReset 2)) = .next t :=
  ⟨by decide, _, rfl⟩

theorem witness_EInitConstructsAResetEngine :
    anEngine.slot = .engine ∧ anEngine.engine.alg = .md5 ∧ 7 ≤ (7#4).toNat ∧ 7 ≤ (15#4).toNat := by decide

/-- Each kind of slot that E_RESET, E_FINALIZE and E_RELEASE tell apart. -/
theorem witness_EResetRestoresTheFreshEngine :
    anEngine.slot = .engine ∧ State.reset.slot = .empty ∧ anHmac.slot = .hmac := by decide

theorem witness_EFinalizeReturnsTheDigestAndResets :
    anEngine.slot = .engine ∧ State.reset.slot = .empty ∧ anHmac.slot = .hmac := by decide

theorem witness_EReleaseZeroesTheEngine :
    anEngine.slot = .engine ∧ State.reset.slot = .empty ∧ anHmac.slot = .hmac ∧
    ∃ t u, exec .eRelease anEngine = .next t ∧ exec .eFinalize t = .next u :=
  ⟨by decide, by decide, by decide, _, _, rfl, rfl⟩

/-- An MD5 engine that three more bytes fill and four overflow (section 6's length-bound corner). -/
def aFullEngine (d : Din) : State :=
  { engineState .md5 d with engine := ⟨initialChain .md5, fill 0 60, 2 ^ 61 - 4, .cleared⟩ }
/-- The same of an HMAC instance. -/
def aFullHmac (d : Din) : State :=
  { anHmac with din := d, engine := ⟨initialChain .md5, fill 0 60, 2 ^ 61 - 4, .cleared⟩ }

/-- The slice of `d` is a slice of the buffer `b`. -/
def sliced (d : Din) (b : List Byte) : Bool :=
  d.buf == some b && decide (0 ≤ d.off.toInt) && decide (0 ≤ d.len.toInt) && decide (d.off.toInt + d.len.toInt ≤ b.length)

/-- The slice of `d` passes the end of the buffer `b`. -/
def pastEnd (d : Din) (b : List Byte) : Bool :=
  d.buf == some b && decide (0 ≤ d.off.toInt) && decide (0 ≤ d.len.toInt) && decide (d.off.toInt + d.len.toInt > b.length)

/-- One state for each clause: an update that fills COUNT exactly, one of no byte at the buffer's end, and one for each check
in its order, each at the first operand it turns away. -/
theorem witness_EUpdateAbsorbsTheSlice :
    (let s := aFullEngine (operand (ascii "abc") 0 3);
      s.slot = .engine ∧ sliced s.din (ascii "abc") = true ∧
      (s.engine.count : Int) + s.din.len.toInt ≤ s.engine.alg.countMax) ∧
    (let s := engineState .md5 (operand (ascii "abc") 3 0);
      s.slot = .engine ∧ (s.engine.plen < s.engine.bs ∧ s.engine.count ≤ s.engine.alg.countMax ∧
        s.engine.count % s.engine.bs = s.engine.plen) ∧
      s.din.buf = some (ascii "abc") ∧ 0 ≤ s.din.off.toInt ∧ s.din.len = 0#32 ∧
      s.din.off.toInt ≤ (ascii "abc").length) ∧
    State.reset.slot = .empty ∧ anHmac.slot = .hmac ∧
    ((engineState .md5 .absent).slot = .engine ∧ (engineState .md5 .absent).din.buf = none) ∧
    (let s := engineState .md5 (operand (ascii "abc") (-1) 1);
      s.slot = .engine ∧ s.din.buf = some (ascii "abc") ∧ s.din.off.toInt < 0) ∧
    (let s := engineState .md5 (operand (ascii "abc") 0 (-1));
      s.slot = .engine ∧ s.din.buf = some (ascii "abc") ∧ s.din.len.toInt < 0) ∧
    (let s := engineState .md5 (operand (ascii "abc") 4 0);
      s.slot = .engine ∧ pastEnd s.din (ascii "abc") = true) ∧
    (let s := aFullEngine (operand (ascii "abcd") 0 4);
      s.slot = .engine ∧ sliced s.din (ascii "abcd") = true ∧
      (s.engine.count : Int) + s.din.len.toInt > s.engine.alg.countMax) := by decide +kernel

theorem witness_HUpdateForwardsTheSlice :
    (let s := aFullHmac (operand (ascii "abc") 0 3);
      s.slot = .hmac ∧ sliced s.din (ascii "abc") = true ∧
      (s.engine.count : Int) + s.din.len.toInt ≤ s.engine.alg.countMax) ∧
    State.reset.slot = .empty ∧ anEngine.slot = .engine ∧
    ((aFullHmac .absent).slot = .hmac ∧ (aFullHmac .absent).din.buf = none) ∧
    (let s := aFullHmac (operand (ascii "abc") (-1) 1);
      s.slot = .hmac ∧ s.din.buf = some (ascii "abc") ∧ s.din.off.toInt < 0) ∧
    (let s := aFullHmac (operand (ascii "abc") 4 0);
      s.slot = .hmac ∧ pastEnd s.din (ascii "abc") = true) ∧
    (let s := aFullHmac (operand (ascii "abcd") 0 4);
      s.slot = .hmac ∧ sliced s.din (ascii "abcd") = true ∧
      (s.engine.count : Int) + s.din.len.toInt > s.engine.alg.countMax) := by decide +kernel

/-- The largest output size and the natural one pass; 136, 100 and a key longer than a capacity of 2 do not. -/
theorem witness_HInitConstructsAPrimedInstance :
    (let s := { State.reset with din := operand (ascii "abc") 0 3 };
      sliced s.din (ascii "abc") = true ∧ 128 = (if 128#16 = 0#16 then 8 * Alg.ds .md5 else (128#16).toNat) ∧
      128 = (if 0#16 = 0#16 then 8 * Alg.ds .md5 else (0#16).toNat) ∧ 128 % 8 = 0 ∧ 128 ≤ 8 * Alg.ds .md5 ∧
      s.din.len.toInt ≤ s.keyCapacity ∧
      ascii "abc" = ((ascii "abc").drop s.din.off.toInt.toNat).take s.din.len.toInt.toNat) ∧
    7 ≤ (7#4).toNat ∧ 7 ≤ (15#4).toNat ∧ State.reset.din.buf = none ∧
    ((operand (ascii "abc") (-1) 1).buf = some (ascii "abc") ∧ (operand (ascii "abc") (-1) 1).off.toInt < 0) ∧
    pastEnd (operand (ascii "abc") 4 0) (ascii "abc") = true ∧
    (let s := { State.reset with din := operand (ascii "abc") 0 3, keyCapacity := 2 };
      sliced s.din (ascii "abc") = true ∧ s.din.len.toInt > s.keyCapacity) ∧
    136 = (if 136#16 = 0#16 then 8 * Alg.ds .md5 else (136#16).toNat) ∧ 136 > 8 * Alg.ds .md5 ∧ 100 % 8 ≠ 0 := by
  decide +kernel

theorem witness_HSetkeyRekeysTheInstance :
    (anHmac.slot = .hmac ∧ sliced anHmac.din (ascii "abc") = true ∧ anHmac.din.len.toInt ≤ anHmac.keyCapacity ∧
      ascii "abc" = ((ascii "abc").drop anHmac.din.off.toInt.toNat).take anHmac.din.len.toInt.toNat) ∧
    State.reset.slot = .empty ∧ anEngine.slot = .engine ∧
    ((aFullHmac .absent).slot = .hmac ∧ (aFullHmac .absent).din.buf = none) ∧
    (let s := aFullHmac (operand (ascii "abc") 0 (-1));
      s.slot = .hmac ∧ s.din.buf = some (ascii "abc") ∧ s.din.len.toInt < 0) ∧
    (let s := aFullHmac (operand (ascii "abc") 4 0);
      s.slot = .hmac ∧ pastEnd s.din (ascii "abc") = true) ∧
    (let s := { anHmac with keyCapacity := 2 };
      s.slot = .hmac ∧ sliced s.din (ascii "abc") = true ∧ s.din.len.toInt > s.keyCapacity) := by decide +kernel

theorem witness_HFinalizeReturnsTheTagAndReprimes :
    anHmac.slot = .hmac ∧ State.reset.slot = .empty ∧ anEngine.slot = .engine := by decide

theorem witness_HReleaseWipesTheKeyMaterial :
    anHmac.slot = .hmac ∧ State.reset.slot = .empty ∧ anEngine.slot = .engine := by decide

theorem witness_HGetkeyReturnsTheKey :
    anHmac.slot = .hmac ∧ State.reset.slot = .empty ∧ anEngine.slot = .engine := by decide

theorem witness_RdregReturnsTheRegister :
    anHmac.slot ≠ .empty ∧ anEngine.slot ≠ .empty ∧ State.reset.slot = .empty ∧
    (0x4#16) ∉ [0x0#16, 0x1#16, 0x2#16, 0x3#16, 0x10#16, 0x11#16] ∧
    (0x12#16) ∉ [0x0#16, 0x1#16, 0x2#16, 0x3#16, 0x10#16, 0x11#16] := by decide

/-- Two engines that differ in every hidden element agree on what RDREG may read. -/
theorem witness_RdregRevealsNoHiddenState :
    let s' : State := { anEngine with engine := ⟨.md5 ⟨1, 2, 3, 4⟩, [5], 6, .cleared⟩, key := [7] }
    anEngine.slot = s'.slot ∧ anEngine.errstat = s'.errstat ∧ anEngine.engine.alg = s'.engine.alg ∧
    anEngine.outBits = s'.outBits ∧ anEngine ≠ s' := by decide +kernel

theorem witness_FailingCommandChangesOnlyErrstat :
    ∃ t, exec .eReset State.reset = .next t ∧ t.result = some ⟨.released, 0, []⟩ ∧ Status.released ≠ .ok :=
  ⟨_, rfl, rfl, by decide⟩

/-- A failing command at the port, with ERRSTAT 0 and with ERRSTAT set. -/
theorem witness_ErrstatKeepsTheFirstFailure :
    (∃ t, step (State.reset.withFetchWord 32 0) = .next t) ∧ (State.reset.withFetchWord 32 0).port ≠ [] ∧
    (∃ t, step ({ State.reset with errstat := .kind }.withFetchWord 32 0) = .next t) ∧ State.reset.port = [] :=
  ⟨⟨_, rfl⟩, by decide, ⟨_, rfl⟩, rfl⟩

theorem witness_CommandsReportOnlyTheirChecks :
    Instr.eReset.wellFormed = true ∧ ∃ t, exec .eReset State.reset = .next t ∧ t.result = some ⟨.released, 0, []⟩ :=
  ⟨rfl, _, rfl, rfl⟩

theorem witness_EmptySlotAdmitsOnlyInitAndStatus :
    State.reset.slot = .empty ∧ ∃ t, exec (.rdreg 0x11) State.reset = .next t ∧ t.result = some ⟨.ok, 0, []⟩ :=
  ⟨rfl, _, rfl, rfl⟩

/-- Commands that write SLOT, ALG, the key material and the engine, each answering a next state. -/
theorem witness_SlotIsWrittenByInitAndReleaseAlone :
    (∃ t, exec (.eInit 4) State.reset = .next t) ∧ ∃ t, exec .eRelease anEngine = .next t := ⟨⟨_, rfl⟩, _, rfl⟩

theorem witness_AlgorithmIsFixedAtConstruction :
    (∃ t, exec (.eInit 4) State.reset = .next t) ∧ ∃ t, exec .eReset anEngine = .next t := ⟨⟨_, rfl⟩, _, rfl⟩

theorem witness_KeyMaterialIsWrittenByKeyCommandsAlone :
    (∃ t, exec .hRelease anHmac = .next t) ∧ ∃ t, exec .hGetkey anHmac = .next t := ⟨⟨_, rfl⟩, _, rfl⟩

theorem witness_HostOperandsAreNotWritten :
    (∃ t, exec .eUpdate anEngine = .next t) ∧ ∃ t, exec .hGetkey anHmac = .next t := ⟨⟨_, rfl⟩, _, rfl⟩

theorem witness_CommandsWithoutDataIgnoreTheOperand :
    Instr.eReset ≠ .eUpdate ∧ (∀ a n, Instr.eReset ≠ .hInit a n) ∧ Instr.eReset ≠ .hSetkey ∧
    Instr.eReset ≠ .hUpdate ∧ ∃ t, exec .eReset anEngine = .next t :=
  ⟨by decide, by simp, by decide, by decide, _, rfl⟩

/-- The slice "abc" of "abc" and of "xabcx", where another offset finds it. -/
theorem witness_OnlyTheSliceIsRead :
    anEngine.din.buf = some (ascii "abc") ∧ 0 ≤ anEngine.din.off.toInt ∧ 0 ≤ anEngine.din.len.toInt ∧
    anEngine.din.off.toInt + anEngine.din.len.toInt ≤ (ascii "abc").length ∧ 0 ≤ (1#32).toInt ∧
    (1#32).toInt + anEngine.din.len.toInt ≤ (ascii "xabcx").length ∧
    ((ascii "xabcx").drop (1#32).toInt.toNat).take anEngine.din.len.toInt.toNat =
      ((ascii "abc").drop anEngine.din.off.toInt.toNat).take anEngine.din.len.toInt.toNat ∧
    ∃ t, exec .eUpdate anEngine = .next t :=
  ⟨rfl, by decide, by decide, by decide, by decide, by decide, by decide, _, rfl⟩

/-- An HMAC instance as H_INIT leaves it meets R67. -/
theorem anHmac_Inv : Inv anHmac := by
  refine ⟨fun _ => ?_, fun _ => ⟨?_, ?_, [], ?_⟩⟩
  · unfold EngineInv; decide +kernel
  · unfold OutBitsLegal; decide +kernel
  · unfold KeyInv; decide +kernel
  · decide +kernel

theorem witness_StepKeepsTheInvariantOfR67 :
    Inv { anHmac with port := [⟨encode .hFinalize, .absent⟩] } ∧
    (∃ t, step { anHmac with port := [⟨encode .hFinalize, .absent⟩] } = .next t) ∧
    (let s := hmacState .md5 128 (ascii "k") (operand (ascii "abc") 0 3);
      s.slot = .hmac ∧ s.engine = absorbed s.engine.alg (s.ipad ++ []) ∧
      ∃ t, exec .hUpdate s = .next t ∧ t.slot = .hmac ∧ t.result = some ⟨.ok, 0, []⟩) := by
  refine ⟨anHmac_Inv, ⟨_, rfl⟩, by decide +kernel, by decide +kernel, ?_⟩
  refine ⟨_, rfl, ?_, ?_⟩ <;> decide +kernel

/-- An HMAC instance, and an empty block, meet the clearing rule, and each takes a step. -/
theorem witness_StepKeepsTheBlockCleared :
    Cleared { anHmac with port := [⟨encode .hRelease, .absent⟩] } ∧
    (∃ t, step { anHmac with port := [⟨encode .hRelease, .absent⟩] } = .next t) ∧ Cleared State.reset := by
  refine ⟨?_, ⟨_, rfl⟩, ?_⟩
  · unfold Cleared; decide +kernel
  · unfold Cleared; decide +kernel

/-- The fullest pending buffer that an engine holds between commands. -/
def aFullBuffer : Engine := ⟨initialChain .md5, fill 0 63, 63, .cleared⟩

theorem witness_UpdateIsFeedingBytewise : aFullBuffer.plen < aFullBuffer.bs := by decide
theorem witness_ChunkingChangesNothing : aFullBuffer.plen < aFullBuffer.bs ∧
    [fill 1 65, fill 2 15].flatten = fill 1 65 ++ fill 2 15 := by decide
theorem witness_UpdateCountsAndBuffers : aFullBuffer.plen < aFullBuffer.bs := by decide

/-- PLEN on both sides of the boundary of one and two blocks. -/
theorem witness_FinalizationTakesOneOrTwoBlocks :
    aFullBuffer.plen < aFullBuffer.bs ∧ aFullBuffer.bs - aFullBuffer.alg.lf - 1 < aFullBuffer.plen ∧
    (fill 0 55).length = Alg.bs .md5 - Alg.lf .md5 - 1 ∧ (fill 0 111).length = Alg.bs .sha512 - Alg.lf .sha512 - 1 := by
  decide

/-- COUNT_MAX of each length field, and an algorithm of each order. -/
theorem witness_LengthFieldHoldsTheBitCount :
    2 ^ 61 - 1 ≤ Alg.countMax .md5 ∧ Alg.lf .md5 = 8 ∧ Alg.order .md5 = .little ∧
    2 ^ 61 - 1 ≤ Alg.countMax .sha1 ∧ Alg.lf .sha1 = 8 ∧ Alg.order .sha1 = .big ∧
    2 ^ 64 - 1 ≤ Alg.countMax .sha512 ∧ Alg.lf .sha512 = 16 := by decide

theorem witness_DigestsAndTagsHaveFixedLength :
    anEngine.slot = .engine ∧ anHmac.slot = .hmac ∧ OutBitsLegal anHmac := by unfold OutBitsLegal; decide

/-- The least and the largest amount of a rotation. -/
theorem witness_RotationsMoveEveryBit : 0 < 1 ∧ 1 < 32 ∧ 0 < 63 ∧ 63 < 64 := by decide

theorem witness_EndianUnitsRoundTrip :
    4 + 4 ≤ (hex "0123456789abcdef").length ∧ 0 + 8 ≤ (hex "0123456789abcdef").length := by decide +kernel

theorem witness_Sha1ScheduleRecurrence : 15 < 16 ∧ 16 ≤ 16 ∧ 16 < 80 ∧ 16 ≤ 79 ∧ 79 < 80 := by decide
theorem witness_Sha2ScheduleRecurrences : 15 < 16 ∧ 16 ≤ 16 ∧ 63 < 64 ∧ 79 < 80 := by decide
theorem witness_PadsAreTheMaskedEffectiveKey : 0 < Alg.bs .md5 ∧ 127 < Alg.bs .sha512 := by decide

/-- A key of exactly a block, a key of one byte more, and two keys of a block that derive the same pad (the same key). -/
theorem witness_LongKeyActsAsItsDigest :
    (fill 0 64).length ≤ Alg.bs .md5 ∧ Alg.bs .md5 < (fill 0 65).length ∧ (fill 0 64).length = Alg.bs .md5 ∧
    innerPad .md5 (fill 0 64) = innerPad .md5 (fill 0 64) := ⟨by decide, by decide, by decide, rfl⟩

theorem witness_TagTruncationKeepsLeadingBytes :
    anHmac.slot = .hmac ∧ 8 ≤ anHmac.engine.alg.naturalBits ∧ 128 ≤ anHmac.engine.alg.naturalBits := by decide

theorem witness_RekeyingIsConstructingAnew :
    anHmac.slot = .hmac ∧ hmacOutBits anHmac.engine.alg 128 = anHmac.outBits ∧
    hmacOutBits anHmac.engine.alg 0 = anHmac.outBits ∧ OutBitsLegal anHmac ∧ anHmac.din.buf = some (ascii "abc") ∧
    0 ≤ anHmac.din.off.toInt ∧ 0 ≤ anHmac.din.len.toInt ∧
    anHmac.din.off.toInt + anHmac.din.len.toInt ≤ (ascii "abc").length ∧
    anHmac.din.len.toInt ≤ anHmac.keyCapacity := by unfold OutBitsLegal; decide +kernel

theorem witness_FinalizedInstanceIsAsKeyed : anHmac.slot = .hmac ∧ KeyInv anHmac := by
  unfold KeyInv; decide +kernel

theorem witness_KeyIsReadBackVerbatim :
    anHmac.slot = .hmac ∧ 0 ≤ (1#32).toInt ∧ 0 ≤ (2#32).toInt ∧ (1#32).toInt + (2#32).toInt ≤ (ascii "abc").length ∧
    (2#32).toInt ≤ anHmac.keyCapacity ∧
    ascii "bc" = ((ascii "abc").drop (1#32).toInt.toNat).take (2#32).toInt.toNat ∧
    ({ anHmac with port := [⟨encode .hSetkey, ⟨some (ascii "abc"), 1#32, 2#32⟩⟩, ⟨encode .hGetkey, .absent⟩] } :
      State).port = ⟨encode .hSetkey, ⟨some (ascii "abc"), 1#32, 2#32⟩⟩ :: ⟨encode .hGetkey, .absent⟩ :: [] :=
  ⟨by decide, by decide, by decide, by decide, by decide, by decide, rfl⟩

/-- The parts "a" and "bc" of Program 1, and no part at all. -/
theorem witness_EngineRunReturnsTheDigest :
    (∀ p ∈ [ascii "a", ascii "bc"], p.length ≤ maxBufferLength) ∧
    [ascii "a", ascii "bc"].flatten.length ≤ Alg.countMax .md5 ∧
    ([] : List (List Byte)).flatten.length ≤ Alg.countMax .sha512 ∧
    ({ State.reset with port := ⟨encode (.eInit (Alg.code .md5)), .absent⟩ ::
        ([ascii "a", ascii "bc"].map fun p => ⟨encode .eUpdate, ⟨some p, 0#32, BitVec.ofNat 32 p.length⟩⟩) ++
        ⟨encode .eFinalize, .absent⟩ :: [] } : State).port =
      ⟨encode (.eInit (Alg.code .md5)), .absent⟩ ::
        ([ascii "a", ascii "bc"].map fun p => ⟨encode .eUpdate, ⟨some p, 0#32, BitVec.ofNat 32 p.length⟩⟩) ++
        ⟨encode .eFinalize, .absent⟩ :: [] :=
  ⟨by decide, by decide, by decide, rfl⟩

/-- A key of the empty length and of one byte, the smallest and the largest output size, and the message in two parts. -/
theorem witness_HmacRunReturnsTheFormula :
    (ascii "k").length ≤ maxBufferLength ∧ (ascii "k").length ≤ State.reset.keyCapacity ∧
    hmacOutBits .md5 8 % 8 = 0 ∧ hmacOutBits .md5 8 ≤ Alg.naturalBits .md5 ∧ hmacOutBits .md5 0 % 8 = 0 ∧
    hmacOutBits .md5 0 ≤ Alg.naturalBits .md5 ∧ (∀ p ∈ [ascii "a", ascii "bc"], p.length ≤ maxBufferLength) ∧
    Alg.bs .md5 + [ascii "a", ascii "bc"].flatten.length ≤ Alg.countMax .md5 ∧
    ({ State.reset with port := ⟨encode (.hInit (Alg.code .md5) 8), ⟨some (ascii "k"), 0#32, BitVec.ofNat 32 1⟩⟩ ::
        ([ascii "a", ascii "bc"].map fun p => ⟨encode .hUpdate, ⟨some p, 0#32, BitVec.ofNat 32 p.length⟩⟩) ++
        ⟨encode .hFinalize, .absent⟩ :: [] } : State).port =
      ⟨encode (.hInit (Alg.code .md5) 8), ⟨some (ascii "k"), 0#32, BitVec.ofNat 32 1⟩⟩ ::
        ([ascii "a", ascii "bc"].map fun p => ⟨encode .hUpdate, ⟨some p, 0#32, BitVec.ofNat 32 p.length⟩⟩) ++
        ⟨encode .hFinalize, .absent⟩ :: [] :=
  ⟨by decide, by decide, by decide, by decide, by decide, by decide, by decide, by decide, rfl⟩

/-- The least and the largest operand, a legal slice, the NULL buffer, a negative offset and a slice just past the end. -/
theorem witness_EHashReturnsTheDigestOrStops :
    (-2 ^ 31 : Int) ≤ -2 ^ 31 ∧ (2 ^ 31 - 1 : Int) < 2 ^ 31 ∧ (AsmBuf.ascii ['a']).bytes? = some (ascii "a") ∧
    (0 : Int) ≤ 1 ∧ (1 : Int) + 0 ≤ (ascii "a").length ∧ AsmBuf.null.bytes? = none ∧
    (-1 : Int) < 0 ∧ (0 : Int) ≤ 2 ∧ (2 : Int) + 0 > (ascii "a").length := by decide

/-- The parts "a" and "bc", no part, and the most bytes an engine can still count. -/
theorem witness_HUpdatesInPartsAreOneHUpdate :
    anHmac.slot = .hmac ∧ anHmac.engine.plen < anHmac.engine.bs ∧
    [ascii "a", ascii "bc"].flatten.length ≤ maxBufferLength ∧
    anHmac.engine.count + [ascii "a", ascii "bc"].flatten.length ≤ anHmac.engine.alg.countMax ∧
    ([] : List (List Byte)).flatten.length ≤ maxBufferLength ∧
    (aFullHmac .absent).engine.plen < (aFullHmac .absent).engine.bs ∧
    (aFullHmac .absent).engine.count + [ascii "abc"].flatten.length ≤ (aFullHmac .absent).engine.alg.countMax := by
  decide +kernel

end Sys2Proof.Tests
end

section
/-! Rotations of a word (spec/00_scope.md R13): the model's `rotl` and `rotr` are the library's rotations, and a right
rotation takes a left rotation by the same amount back. -/

namespace Sys2Proof.Machine

/-- R13: within the width, the shift formula is the library's left rotation. -/
theorem rotl_eq_rotateLeft {N : Nat} (x : BitVec N) {n : Nat} (hn : n < N) : rotl x n = x.rotateLeft n := by
  rw [rotl, BitVec.rotateLeft_def, Nat.mod_eq_of_lt hn]

/-- R13: `rotr` is the left rotation by the complement `N - n`, whose two shifts are those of the right rotation. -/
theorem rotr_eq_rotateRight {N : Nat} (x : BitVec N) {n : Nat} (hn : n < N) : rotr x n = x.rotateRight n := by
  have hcompl : N - (N - n) = n := by omega
  rw [rotr, rotl, hcompl, BitVec.rotateRight_def, Nat.mod_eq_of_lt hn, BitVec.or_comm]

/-- Bit `i` of the right rotation is bit `n + i` of the word, or bit `i - (N - n)` past the end; the left rotation put
bit `i` in just that place. -/
theorem rotateRight_rotateLeft {N : Nat} (x : BitVec N) {n : Nat} (hn : n < N) :
    (x.rotateLeft n).rotateRight n = x := by
  ext i hi
  simp only [BitVec.getElem_rotateRight, BitVec.getElem_rotateLeft, Nat.mod_eq_of_lt hn]
  by_cases hlow : i < N - n
  · have hge : ¬ n + i < n := by omega
    simp [hlow, hge]
  · have hlt : i - (N - n) < n := by omega
    have hback : N - n + (i - (N - n)) = i := by omega
    simp [hlow, hlt, hback]

/-- R13: a right rotation undoes the left rotation by the same amount. -/
theorem rotr_rotl {N : Nat} (x : BitVec N) {n : Nat} (hn : n < N) : rotr (rotl x n) n = x := by
  rw [rotr_eq_rotateRight _ hn, rotl_eq_rotateLeft _ hn, rotateRight_rotateLeft _ hn]

/-- Settles O46, by the library's rotations and their bits. -/
theorem rotationsMoveEveryBit : Obligations.RotationsMoveEveryBit := by
  unfold Obligations.RotationsMoveEveryBit
  intro N x n _ hn
  exact ⟨rotl_eq_rotateLeft x hn, rotr_eq_rotateRight x hn, rotr_rotl x hn⟩

end Sys2Proof.Machine
end

section
/-! Absorbing bytes (spec/41_engine.md R256, R269): an update is the bytewise feed of its bytes, so updates compose; what
an update leaves pending, and what one whole block leaves. -/

namespace Sys2Proof.Machine

/-! ### The elements the small updates leave -/

@[simp] theorem countInput_plen (e : Engine) (n : Nat) : (countInput e n).plen = e.plen := rfl
@[simp] theorem countInput_pbuf (e : Engine) (n : Nat) : (countInput e n).pbuf = e.pbuf := rfl
@[simp] theorem countInput_bs (e : Engine) (n : Nat) : (countInput e n).bs = e.bs := rfl
@[simp] theorem bufferRest_bs (e : Engine) (d : List Byte) : (bufferRest e d).bs = e.bs := rfl
@[simp] theorem bufferRest_plen (e : Engine) (d : List Byte) : (bufferRest e d).plen = e.plen + d.length :=
  List.length_append
@[simp] theorem engineReset_count (e : Engine) : (engineReset e).count = 0 := rfl
@[simp] theorem engineReset_chain (e : Engine) : (engineReset e).chain = initialChain e.alg := rfl
@[simp] theorem engineConstruct_bs (a : Alg) (e : Engine) : (engineConstruct a e).bs = a.bs := by simp [Engine.bs]
@[simp] theorem engineConstruct_count (a : Alg) (e : Engine) : (engineConstruct a e).count = 0 := rfl
@[simp] theorem engineConstruct_chain (a : Alg) (e : Engine) : (engineConstruct a e).chain = initialChain a := rfl
@[simp] theorem engineFeed_bs (e : Engine) (b : Byte) : (engineFeed e b).bs = e.bs := by simp [Engine.bs]
@[simp] theorem engineUpdate_bs (e : Engine) (d : List Byte) : (engineUpdate e d).bs = e.bs := by simp [Engine.bs]

@[simp] theorem bufferRest_nil (e : Engine) : bufferRest e [] = e := by simp [bufferRest]

theorem countInput_countInput (e : Engine) (m n : Nat) : countInput (countInput e m) n = countInput e (m + n) := by
  simp [countInput, Nat.add_assoc]

/-! ### The pending buffer, filled or not (R256 (a), R269) -/

/-- Bytes that do not fill the pending buffer join it. -/
theorem fillPending_of_short {e : Engine} {d : List Byte} (h : e.plen + d.length < e.bs) :
    fillPending e d = bufferRest e d := by
  have hne : (bufferRest e d).plen ≠ (bufferRest e d).bs := by simp; omega
  exact if_neg hne

/-- Bytes that fill the pending buffer exactly leave it empty. -/
theorem fillPending_of_exact {e : Engine} {d : List Byte} (h : e.plen + d.length = e.bs) :
    fillPending e d = compressBlock { e with pbuf := [] } (e.pbuf ++ d) := by
  have heq : (bufferRest e d).plen = (bufferRest e d).bs := by simpa using h
  exact if_pos heq

/-- A whole block, from an empty pending buffer, is compressed as it stands. -/
theorem fillPending_of_block {e : Engine} {d : List Byte} (hp : e.pbuf = []) (h : d.length = e.bs) :
    fillPending e d = compressBlock e d := by
  rw [fillPending_of_exact (by simpa [Engine.plen, hp] using h)]
  simp [compressBlock, hp]

/-- Counting more input and filling the pending buffer write different elements. -/
theorem fillPending_countInput (e : Engine) (d : List Byte) (n : Nat) :
    fillPending (countInput e n) d = countInput (fillPending e d) n :=
  (apply_ite (countInput · n) ((bufferRest e d).plen = (bufferRest e d).bs)
    (compressBlock { e with pbuf := [] } (e.pbuf ++ d)) (bufferRest e d)).symm

/-! ### Whole blocks (R256 (b), (c)) -/

theorem absorbDirect_of_short {e : Engine} {d : List Byte} (h : d.length < e.bs) :
    absorbDirect e d = bufferRest e d := by
  simp [absorbDirect, Nat.div_eq_of_lt h, compressBlocks]

@[simp] theorem absorbDirect_nil (e : Engine) : absorbDirect e [] = e :=
  (absorbDirect_of_short (d := []) (engine_bs_pos e)).trans (bufferRest_nil e)

/-- The first block of the input is compressed before the rest is absorbed. -/
theorem absorbDirect_of_block {e : Engine} {d : List Byte} (h : e.bs ≤ d.length) :
    absorbDirect e d = absorbDirect (compressBlock e (d.take e.bs)) (d.drop e.bs) := by
  have hdiv : d.length / e.bs = (d.length - e.bs) / e.bs + 1 := Nat.div_eq_sub_div (engine_bs_pos e) h
  simp only [absorbDirect, hdiv, compressBlocks, compressBlock_bs, List.length_drop, List.drop_drop]
  rw [Nat.add_mul, Nat.one_mul, Nat.add_comm]

/-! ### Feeding byte by byte (R269) -/

theorem engineFeed_eq (e : Engine) (b : Byte) : engineFeed e b = fillPending (countInput e 1) [b] := rfl

/-- A byte that does not fill the pending buffer and the bytes after it are counted and buffered together. -/
theorem fillPending_cons (e : Engine) (b : Byte) (d : List Byte) :
    fillPending (countInput (bufferRest (countInput e 1) [b]) d.length) d =
      fillPending (countInput e (b :: d).length) (b :: d) := by
  simp [fillPending, bufferRest, countInput, Nat.add_assoc, Nat.add_comm 1]

/-- Bytes that at most fill the pending buffer. -/
theorem foldl_engineFeed_within {e : Engine} {d : List Byte} (hp : e.plen < e.bs) (h : e.plen + d.length ≤ e.bs) :
    d.foldl engineFeed e = fillPending (countInput e d.length) d := by
  induction d generalizing e with
  | nil => exact ((fillPending_of_short (d := []) hp).trans (bufferRest_nil e)).symm
  | cons b d ih =>
    rw [List.length_cons] at h
    rw [List.foldl_cons, engineFeed_eq]
    by_cases hd : d = []
    · subst hd; rfl
    · have hpos : 0 < d.length := List.length_pos_of_ne_nil hd
      have hshort : fillPending (countInput e 1) [b] = bufferRest (countInput e 1) [b] :=
        fillPending_of_short (by simp; omega)
      rw [hshort, ih (by simp; omega) (by simp; omega), fillPending_cons]

/-- From an empty pending buffer, feeding compresses the whole blocks and buffers the rest. -/
theorem foldl_engineFeed_empty (d : List Byte) {e : Engine} (hp : e.pbuf = []) :
    d.foldl engineFeed e = absorbDirect (countInput e d.length) d := by
  have hplen : e.plen = 0 := by simp [Engine.plen, hp]
  have hpos := engine_bs_pos e
  by_cases hd : d.length < e.bs
  · rw [foldl_engineFeed_within (by omega) (by omega), absorbDirect_of_short (by simpa using hd),
      fillPending_of_short (by simp; omega)]
  · have hlen : (d.take e.bs).length = e.bs := by rw [List.length_take]; omega
    have hfirst : (d.take e.bs).foldl engineFeed e = compressBlock (countInput e e.bs) (d.take e.bs) := by
      rw [foldl_engineFeed_within (by omega) (by omega), hlen,
        fillPending_of_block (by simpa using hp) (by simpa using hlen)]
    have hcount : e.bs + (d.drop e.bs).length = d.length := by rw [List.length_drop]; omega
    calc d.foldl engineFeed e
        = (d.drop e.bs).foldl engineFeed (compressBlock (countInput e e.bs) (d.take e.bs)) := by
          rw [← hfirst, ← List.foldl_append, List.take_append_drop]
      _ = absorbDirect (countInput (compressBlock (countInput e e.bs) (d.take e.bs)) (d.drop e.bs).length)
            (d.drop e.bs) := foldl_engineFeed_empty (d.drop e.bs) hp
      _ = absorbDirect (compressBlock (countInput (countInput e e.bs) (d.drop e.bs).length) (d.take e.bs))
            (d.drop e.bs) := rfl
      _ = absorbDirect (countInput e d.length) d := by
          rw [countInput_countInput, hcount, absorbDirect_of_block (e := countInput e d.length) (by simp; omega),
            countInput_bs]
termination_by d.length
decreasing_by rw [List.length_drop]; omega

/-- R256: the first `k` bytes of an input fill the pending buffer, and the rest is absorbed directly; where bytes are left
over, the pending buffer is empty by then. -/
theorem foldl_engineFeed_split {e : Engine} {d : List Byte} {k : Nat} (hp : e.plen < e.bs) (hk : k ≤ d.length)
    (hfit : e.plen + k ≤ e.bs) (hrest : k < d.length → (fillPending (countInput e k) (d.take k)).pbuf = []) :
    d.foldl engineFeed e = absorbDirect (fillPending (countInput e d.length) (d.take k)) (d.drop k) := by
  have hlen : (d.take k).length = k := by rw [List.length_take]; omega
  have hfirst : (d.take k).foldl engineFeed e = fillPending (countInput e k) (d.take k) := by
    rw [foldl_engineFeed_within hp (by omega), hlen]
  have hcount : k + (d.drop k).length = d.length := by rw [List.length_drop]; omega
  conv_lhs => rw [← List.take_append_drop k d, List.foldl_append, hfirst]
  by_cases hall : k < d.length
  · rw [foldl_engineFeed_empty _ (hrest hall), ← fillPending_countInput, countInput_countInput, hcount]
  · have heq : k = d.length := by omega
    subst heq; simp

/-- R269: an update is the same as feeding its bytes one at a time. -/
theorem engineUpdate_eq_foldl_engineFeed {e : Engine} (hp : e.plen < e.bs) (d : List Byte) :
    engineUpdate e d = d.foldl engineFeed e := by
  by_cases h0 : e.plen = 0
  · have htake : pendingTake e d.length = 0 := if_neg (by omega)
    refine (foldl_engineFeed_split hp (by omega) (by omega) fun _ => ?_).symm
    rw [htake, List.take_zero, fillPending_of_short (by simpa using hp), bufferRest_nil]
    exact List.eq_nil_of_length_eq_zero h0
  · have htake : pendingTake e d.length = min (e.bs - e.plen) d.length := if_pos (by omega)
    refine (foldl_engineFeed_split hp (by omega) (by omega) fun hlt => ?_).symm
    rw [fillPending_of_exact (by simp; omega)]
    rfl

/-! ### What an update leaves pending, and updates in turn (R57, R264) -/

/-- R57, R269: one byte more is pending, and none where it filled a block. -/
theorem engineFeed_plen {e : Engine} (hp : e.plen < e.bs) (b : Byte) : (engineFeed e b).plen = (e.plen + 1) % e.bs := by
  rw [engineFeed_eq]
  by_cases h : e.plen + 1 = e.bs
  · rw [fillPending_of_exact (by simpa using h), h, Nat.mod_self]; rfl
  · rw [fillPending_of_short (by simp; omega), Nat.mod_eq_of_lt (by omega)]; simp

theorem foldl_engineFeed_plen {e : Engine} (hp : e.plen < e.bs) (d : List Byte) :
    (d.foldl engineFeed e).plen = (e.plen + d.length) % e.bs := by
  induction d generalizing e with
  | nil => exact (Nat.mod_eq_of_lt hp).symm
  | cons b d ih =>
    have hplen := engineFeed_plen hp b
    have hlt : (engineFeed e b).plen < (engineFeed e b).bs := by
      rw [hplen, engineFeed_bs]; exact Nat.mod_lt _ (engine_bs_pos e)
    rw [List.foldl_cons, ih hlt, hplen, engineFeed_bs, Nat.mod_add_mod, List.length_cons, Nat.add_assoc,
      Nat.add_comm 1]

/-- R256, R57: an update leaves pending what is left over from whole blocks. -/
theorem engineUpdate_plen {e : Engine} (hp : e.plen < e.bs) (d : List Byte) :
    (engineUpdate e d).plen = (e.plen + d.length) % e.bs := by
  rw [engineUpdate_eq_foldl_engineFeed hp, foldl_engineFeed_plen hp]

theorem engineUpdate_plen_lt {e : Engine} (hp : e.plen < e.bs) (d : List Byte) :
    (engineUpdate e d).plen < (engineUpdate e d).bs := by
  rw [engineUpdate_plen hp, engineUpdate_bs]; exact Nat.mod_lt _ (engine_bs_pos e)

/-- R264: an update with two strings in turn is one with both. -/
theorem engineUpdate_engineUpdate {e : Engine} (hp : e.plen < e.bs) (x y : List Byte) :
    engineUpdate (engineUpdate e x) y = engineUpdate e (x ++ y) := by
  rw [engineUpdate_eq_foldl_engineFeed (engineUpdate_plen_lt hp x), engineUpdate_eq_foldl_engineFeed hp,
    engineUpdate_eq_foldl_engineFeed hp, List.foldl_append]

/-- R256, R59: one whole block, from an empty pending buffer, is compressed and nothing is left of it; the scratch is clear
after it, whatever it held. -/
theorem engineUpdate_block {e : Engine} {d : List Byte} (hp : e.pbuf = []) (hd : d.length = e.bs) :
    engineUpdate e d = ⟨compress e.chain d, [], e.count + e.bs, .cleared⟩ := by
  have hplen : e.plen = 0 := by simp [Engine.plen, hp]
  have hpos := engine_bs_pos e
  rw [engineUpdate_eq_foldl_engineFeed (by omega), foldl_engineFeed_within (by omega) (by omega),
    fillPending_of_block (by simpa using hp) (by simpa using hd), hd, ← hp]
  rfl

end Sys2Proof.Machine
end

section
/-! Finalizing and keying (spec/41_engine.md R260, R265; spec/47_hmac.md R551, R556): a finalized engine is a fresh one, the
pads are a block long, and both priming with a key and re-priming after a tag leave the engine that has absorbed IPAD. -/

namespace Sys2Proof.Machine

/-! ### Finalizing (R258, R260, R265) -/

/-- R258: the padding completes at least one block, whatever is pending. -/
theorem bs_le_finalBlocks_length (e : Engine) : e.bs ≤ (finalBlocks e).length := by
  rw [finalBlocks_length, Engine.bs]
  cases e.alg <;> simp only [padZeros, Alg.bs, Alg.lf] <;> omega

@[simp] theorem engineFinish_scratch (e : Engine) : (engineFinish e).scratch = .cleared :=
  compressBlocks_scratch (Nat.div_pos (bs_le_finalBlocks_length e) (engine_bs_pos e)) _ _

/-- R265: a finalized engine is one freshly constructed. -/
theorem engineFinalize_eq_engineConstruct (e : Engine) : engineFinalize e = engineConstruct e.alg .zero := by
  simp [engineFinalize, engineReset, engineConstruct, Engine.zero]

/-! ### The pads (R551, R552) -/

theorem digestBytes_length_le (c : Chain) : (digestBytes c).length ≤ c.alg.ds := List.length_take_le _ _

theorem digest_length_le (a : Alg) (d : List Byte) : (digest a d).length ≤ a.ds := by
  have h := digestBytes_length_le (engineFinish (engineUpdate (engineConstruct a .zero) d)).chain
  rwa [show Chain.alg _ = Engine.alg _ from rfl, engineFinish_alg, engineUpdate_alg, engineConstruct_alg] at h

/-- R552: the effective key fits a block. -/
theorem effectiveKey_length_le (a : Alg) (k : List Byte) : (effectiveKey a k).length ≤ a.bs := by
  unfold effectiveKey
  split
  · assumption
  · exact (digest_length_le a k).trans (ds_lt_bs a).le

@[simp] theorem paddedKey_length (a : Alg) (k : List Byte) : (paddedKey a k).length = a.bs := by
  have h := effectiveKey_length_le a k
  rw [paddedKey, List.length_append, List.length_replicate]; omega

/-! ### What a primed engine has absorbed (R551, R556, R559) -/

@[simp] theorem absorbed_alg (a : Alg) (m : List Byte) : (absorbed a m).alg = a := by simp [absorbed]

@[simp] theorem absorbed_count (a : Alg) (m : List Byte) : (absorbed a m).count = m.length := by
  simp [absorbed]

theorem engineConstruct_plen_lt (a : Alg) (e : Engine) : (engineConstruct a e).plen < (engineConstruct a e).bs :=
  engine_bs_pos _

/-- R264: what an engine absorbs after some bytes, it has absorbed with them. -/
theorem engineUpdate_absorbed (a : Alg) (m d : List Byte) : engineUpdate (absorbed a m) d = absorbed a (m ++ d) :=
  engineUpdate_engineUpdate (engineConstruct_plen_lt a .zero) m d

/-- R551: setting a key leaves the engine that has absorbed IPAD, whatever it had absorbed and whatever its scratch held. -/
theorem engineUpdate_reset_innerPad (e : Engine) (k : List Byte) :
    engineUpdate (engineReset e) (innerPad e.alg k) = absorbed e.alg (innerPad e.alg k) := by
  rw [absorbed, engineUpdate_block rfl (by simp [Engine.bs]), engineUpdate_block rfl (by simp)]
  simp [Engine.bs]

theorem hmacSetKey_engine_absorbed (s : State) (k : List Byte) :
    (hmacSetKey s k).engine = absorbed s.engine.alg (innerPad s.engine.alg k) := engineUpdate_reset_innerPad _ _

/-- R556, R559: H_FINALIZE leaves the engine that has absorbed IPAD. -/
theorem hmacReprime_eq_absorbed (s : State) : hmacReprime s = absorbed s.engine.alg s.ipad := by
  simp [hmacReprime, engineFinalize_eq_engineConstruct, absorbed]

/-! ### R67's engine part (EngineInv) -/

theorem bs_le_countMax (a : Alg) : a.bs ≤ a.countMax := by cases a <;> decide

/-- R67: an engine that holds nothing. -/
theorem engineInv_of_empty {e : Engine} (hp : e.pbuf = []) (hc : e.count = 0) : EngineInv e := by
  simp [EngineInv, Engine.plen, hp, hc, engine_bs_pos]

/-- R67: an update within COUNT_MAX keeps it. -/
theorem engineUpdate_engineInv {e : Engine} {d : List Byte} (h : EngineInv e)
    (hmax : e.count + d.length ≤ e.alg.countMax) : EngineInv (engineUpdate e d) := by
  obtain ⟨hp, -, hmod⟩ := h
  refine ⟨engineUpdate_plen_lt hp d, by simpa using hmax, ?_⟩
  rw [engineUpdate_plen hp, engineUpdate_count, engineUpdate_bs, ← hmod, Nat.mod_add_mod]

theorem absorbed_engineInv {a : Alg} {m : List Byte} (h : m.length ≤ a.countMax) : EngineInv (absorbed a m) :=
  engineUpdate_engineInv (engineInv_of_empty rfl rfl) (by simpa using h)

/-- R551: an engine that has absorbed a pad, a block, meets it. -/
theorem absorbed_innerPad_engineInv (a : Alg) (k : List Byte) : EngineInv (absorbed a (innerPad a k)) :=
  absorbed_engineInv (by simpa using bs_le_countMax a)

end Sys2Proof.Machine
end

section
/-! What a command's effect writes, element by element (spec/10_state.md R50, R55, R64), read off `Effect` once; and the
statements that follow from that and from `exec_cases`: what SLOT, ALG and ERRSTAT can become, and what RDREG may read. -/

namespace Sys2Proof.Machine

/-! ### The slot's three shared updates (R254, R263, R553) -/

@[simp] theorem discardInstance_errstat (s : State) : (discardInstance s).errstat = s.errstat := by
  unfold discardInstance; split <;> simp
@[simp] theorem discardInstance_keyCapacity (s : State) : (discardInstance s).keyCapacity = s.keyCapacity := by
  unfold discardInstance; split <;> simp

@[simp] theorem constructEngine_slot (a : Alg) (s : State) : (constructEngine a s).slot = .engine := rfl
@[simp] theorem constructEngine_errstat (a : Alg) (s : State) : (constructEngine a s).errstat = s.errstat :=
  discardInstance_errstat s
theorem constructEngine_engineInv (a : Alg) (s : State) : EngineInv (constructEngine a s).engine :=
  engineInv_of_empty rfl rfl

@[simp] theorem releaseInstance_slot (s : State) : (releaseInstance s).slot = .empty := rfl
@[simp] theorem releaseInstance_errstat (s : State) : (releaseInstance s).errstat = s.errstat := zeroize_errstat s
@[simp] theorem releaseInstance_alg (s : State) : (releaseInstance s).engine.alg = .md5 :=
  congrArg Engine.alg (zeroize_engine s)

@[simp] theorem constructHmac_slot (a : Alg) (n : Nat) (k : List Byte) (s : State) :
    (constructHmac a n k s).slot = .hmac := rfl
@[simp] theorem constructHmac_errstat (a : Alg) (n : Nat) (k : List Byte) (s : State) :
    (constructHmac a n k s).errstat = s.errstat := discardInstance_errstat s
@[simp] theorem constructHmac_engine (a : Alg) (n : Nat) (k : List Byte) (s : State) :
    (constructHmac a n k s).engine = absorbed a (innerPad a k) := by
  simp [constructHmac, hmacSetKey_engine_absorbed, -hmacSetKey_engine]
@[simp] theorem constructHmac_ipad (a : Alg) (n : Nat) (k : List Byte) (s : State) :
    (constructHmac a n k s).ipad = innerPad a k := by simp [constructHmac]
@[simp] theorem constructHmac_opad (a : Alg) (n : Nat) (k : List Byte) (s : State) :
    (constructHmac a n k s).opad = outerPad a k := by simp [constructHmac]
@[simp] theorem constructHmac_key (a : Alg) (n : Nat) (k : List Byte) (s : State) :
    (constructHmac a n k s).key = k := rfl
@[simp] theorem constructHmac_outBits (a : Alg) (n : Nat) (k : List Byte) (s : State) :
    (constructHmac a n k s).outBits = n := rfl
@[simp] theorem constructHmac_keyCapacity (a : Alg) (n : Nat) (k : List Byte) (s : State) :
    (constructHmac a n k s).keyCapacity = s.keyCapacity := discardInstance_keyCapacity s

/-! ### A command that has its effect (R154, R64) -/

/-- R154: it returns OK. -/
theorem effect_result {i : Instr} {s t : State} (h : Effect i s t) : ∃ v d, t.result = some ⟨.ok, v, d⟩ := by
  cases i with
  | eInit c => obtain ⟨a, -, rfl⟩ := h; exact ⟨_, _, rfl⟩
  | eUpdate | hSetkey | hUpdate => obtain ⟨-, -, -, rfl⟩ := h; exact ⟨_, _, rfl⟩
  | hInit c n => obtain ⟨a, -, -, -, -, rfl⟩ := h; exact ⟨_, _, rfl⟩
  | rdreg n => obtain ⟨r, -, -, rfl⟩ := h; exact ⟨_, _, rfl⟩
  | eReset | eFinalize | eRelease | hFinalize | hRelease | hGetkey => obtain ⟨-, rfl⟩ := h; exact ⟨_, _, rfl⟩

/-- R64: it leaves ERRSTAT. -/
theorem effect_errstat {i : Instr} {s t : State} (h : Effect i s t) : t.errstat = s.errstat := by
  cases i with
  | eInit c => obtain ⟨a, -, rfl⟩ := h; simp
  | eUpdate | hSetkey | hUpdate => obtain ⟨-, -, -, rfl⟩ := h; simp
  | hInit c n => obtain ⟨a, -, -, -, -, rfl⟩ := h; simp
  | rdreg n => obtain ⟨r, -, -, rfl⟩ := h; simp
  | eReset | eFinalize | eRelease | hFinalize | hRelease | hGetkey => obtain ⟨-, rfl⟩ := h; simp

/-- R50: it leaves SLOT, but for an INIT and a RELEASE. -/
theorem effect_slot {i : Instr} {s t : State} (h : Effect i s t) :
    t.slot = s.slot ∨ (∃ a, i = .eInit a ∧ t.slot = .engine) ∨ (∃ a n, i = .hInit a n ∧ t.slot = .hmac) ∨
      ((i = .eRelease ∨ i = .hRelease) ∧ t.slot = .empty) := by
  cases i with
  | eInit c => obtain ⟨a, -, rfl⟩ := h; exact .inr (.inl ⟨c, rfl, rfl⟩)
  | hInit c n => obtain ⟨a, -, -, -, -, rfl⟩ := h; exact .inr (.inr (.inl ⟨c, n, rfl, rfl⟩))
  | eRelease => obtain ⟨-, rfl⟩ := h; exact .inr (.inr (.inr ⟨.inl rfl, rfl⟩))
  | hRelease => obtain ⟨-, rfl⟩ := h; exact .inr (.inr (.inr ⟨.inr rfl, rfl⟩))
  | eUpdate | hSetkey | hUpdate => obtain ⟨-, -, -, rfl⟩ := h; exact .inl rfl
  | rdreg n => obtain ⟨r, -, -, rfl⟩ := h; exact .inl rfl
  | eReset | eFinalize | hFinalize | hGetkey => obtain ⟨-, rfl⟩ := h; exact .inl rfl

/-- R55: it leaves ALG, but for an INIT and a RELEASE. -/
theorem effect_alg {i : Instr} {s t : State} (h : Effect i s t) :
    t.engine.alg = s.engine.alg ∨ (∃ a, i = .eInit a) ∨ (∃ a n, i = .hInit a n) ∨
      ((i = .eRelease ∨ i = .hRelease) ∧ t.slot = .empty ∧ t.engine.alg = .md5) := by
  cases i with
  | eInit c => exact .inr (.inl ⟨c, rfl⟩)
  | hInit c n => exact .inr (.inr (.inl ⟨c, n, rfl⟩))
  | eRelease => obtain ⟨-, rfl⟩ := h; exact .inr (.inr (.inr ⟨.inl rfl, rfl, releaseInstance_alg s⟩))
  | hRelease => obtain ⟨-, rfl⟩ := h; exact .inr (.inr (.inr ⟨.inr rfl, rfl, releaseInstance_alg s⟩))
  | eUpdate | hSetkey | hUpdate => obtain ⟨-, -, -, rfl⟩ := h; left; simp
  | rdreg n => obtain ⟨r, -, -, rfl⟩ := h; left; rfl
  | hFinalize => obtain ⟨-, rfl⟩ := h; left; simp [hmacReprime_eq_absorbed]
  | eReset | eFinalize | hGetkey => obtain ⟨-, rfl⟩ := h; left; simp

/-- Settles O28: a failing command leaves SLOT, and an effect writes it as R50 says. -/
theorem slotIsWrittenByInitAndReleaseAlone : Obligations.SlotIsWrittenByInitAndReleaseAlone := by
  intro i s t h
  rcases exec_cases h with ⟨c, -, rfl⟩ | heff
  · exact .inl rfl
  · exact effect_slot heff

/-- Settles O29: a failing command leaves ALG, and an effect writes it as R55 says. -/
theorem algorithmIsFixedAtConstruction : Obligations.AlgorithmIsFixedAtConstruction := by
  intro i s t h
  rcases exec_cases h with ⟨c, -, rfl⟩ | heff
  · exact .inl rfl
  · exact effect_alg heff

/-! ### ERRSTAT (R64, R660) -/

/-- R64: a command's result and the ERRSTAT it leaves: its status is captured, and OK changes nothing. -/
theorem exec_errstat {i : Instr} {s t : State} (h : exec i s = .next t) :
    ∃ r, t.result = some r ∧ t.errstat = captureError s.errstat r.status := by
  rcases exec_cases h with ⟨c, -, rfl⟩ | heff
  · exact ⟨_, rfl, rfl⟩
  · obtain ⟨v, d, hr⟩ := effect_result heff
    refine ⟨_, hr, (effect_errstat heff).trans ?_⟩
    cases s.errstat <;> rfl

/-- R64: a step holds the state, or captures in ERRSTAT the status of the command it ran. -/
theorem step_errstat {s t : State} (h : step s = .next t) :
    (s.port = [] ∧ t = s) ∨
    (s.port ≠ [] ∧ ∃ r, t.result = some r ∧ t.errstat = captureError s.errstat r.status) := by
  rcases step_cases h with ⟨hport, rfl⟩ | ⟨c, rest, i, hport, -, hexec⟩ | ⟨c, rest, r, hport, -, rfl⟩
  · exact .inl ⟨hport, rfl⟩
  · obtain ⟨r, hr, herr⟩ := exec_errstat hexec
    exact .inr ⟨by simp [hport], r, hr, herr⟩
  · exact .inr ⟨by simp [hport], _, rfl, rfl⟩

/-- Settles O25: the first status captured that is not OK stays. -/
theorem errstatKeepsTheFirstFailure : Obligations.ErrstatKeepsTheFirstFailure := by
  intro s t h
  rcases step_errstat h with ⟨hport, rfl⟩ | ⟨hport, r, hr, herr⟩
  · exact ⟨fun _ => rfl, fun _ hne => absurd hport hne, fun _ => rfl⟩
  · refine ⟨fun hne => herr.trans (captureError_of_ne hne _), fun hok _ => ⟨r, hr, ?_⟩, fun hnil => absurd hnil hport⟩
    rw [herr, hok, captureError_ok]

/-! ### RDREG (R600, R601, R66) -/

theorem exec_rdreg_unlisted {n : BitVec 16} (h : Reg.ofNumber? n = none) (s : State) :
    exec (.rdreg n) s = .next (failed .illegal s) := by simp [exec, execRdreg, h]

theorem exec_rdreg_listed {n : BitVec 16} {r : Reg} (h : Reg.ofNumber? n = some r) (s : State) :
    exec (.rdreg n) s = runChecked (regChecks r) (fun s => complete (regVal r s) [] s) s := by
  simp [exec, execRdreg, h]

/-- R600: the checks of RDREG look at SLOT alone. -/
theorem regChecks_congr {s s' : State} (hslot : s.slot = s'.slot) (r : Reg) :
    firstFailure (regChecks r) s = firstFailure (regChecks r) s' := by
  unfold regChecks
  split
  · simp only [firstFailure_single, checkReleased, hslot]
  · rfl

/-- R601: a register's value is read from SLOT, ERRSTAT, ALG and OUTBITS alone. -/
theorem regVal_congr {s s' : State} (hslot : s.slot = s'.slot) (herr : s.errstat = s'.errstat)
    (halg : s.engine.alg = s'.engine.alg) (hout : s.outBits = s'.outBits) (r : Reg) : regVal r s = regVal r s' := by
  cases r <;> simp only [regVal, outputSize, hslot, herr, halg, hout]

/-- Settles O23: the checks agree, and where they pass the values do. -/
theorem rdregRevealsNoHiddenState : Obligations.RdregRevealsNoHiddenState := by
  intro n s s' hslot herr halg hout
  cases hr : Reg.ofNumber? n with
  | none => exact ⟨_, _, exec_rdreg_unlisted hr s, exec_rdreg_unlisted hr s', rfl⟩
  | some r =>
    rw [exec_rdreg_listed hr, exec_rdreg_listed hr]
    have hchecks := regChecks_congr hslot r
    cases hf : firstFailure (regChecks r) s with
    | some code => exact ⟨_, _, runChecked_fail hf, runChecked_fail (hchecks ▸ hf), rfl⟩
    | none =>
      refine ⟨_, _, runChecked_pass hf, runChecked_pass (hchecks ▸ hf), ?_⟩
      rw [setResult_result, setResult_result, regVal_congr hslot herr halg hout]

/-! ### Power-on reset (R69, R700) -/

/-- Settles O34: every element of the reset state is written out in `State.reset`. -/
theorem powerOnResetValues : Obligations.PowerOnResetValues := by
  refine ⟨fun s => ⟨rfl, rfl, rfl, rfl, rfl, rfl, ?_, ?_, rfl, rfl, ?_, ?_, rfl⟩, rfl, rfl⟩ <;>
    exact fun _ => List.eq_of_mem_replicate

/-- Settles O35: an empty slot asks nothing of Inv, and the reset values are the cleared ones. -/
theorem resetIsSafe : Obligations.ResetIsSafe :=
  ⟨⟨fun h => absurd rfl h, nofun⟩, fun _ => rfl, fun _ => ⟨rfl, rfl, rfl, rfl⟩, rfl⟩

end Sys2Proof.Machine
end

section
/-! R67's invariant over a step (spec/10_state.md R67): each part is kept by every effect; a failing command and an idle step
change nothing that `Inv` reads. -/

namespace Sys2Proof.Machine

/-! ### Sizes the checks guarantee (R101, R655, R656, R657) -/

theorem din_length_le (d : Din) : d.length ≤ maxBufferLength := by
  have h := BitVec.toInt_lt (x := d.len)
  simp only [Din.length, sext32, maxBufferLength] at *
  omega

theorem slice_length_le (d : Din) : d.slice.length ≤ d.length.toNat := List.length_take_le _ _

/-- R62: a slice is no longer than LEN can say. -/
theorem slice_length_le_maxBufferLength (d : Din) : d.slice.length ≤ maxBufferLength := by
  have h1 := slice_length_le d
  have h2 := din_length_le d
  omega

/-- R656: a key that passes its check fits its store. -/
theorem slice_length_le_keyCapacity {s : State} (h : checkKeySize s = none) : s.din.slice.length ≤ s.keyCapacity := by
  have h1 := slice_length_le s.din
  have h2 := (checkKeySize_pass s).1 h
  omega

/-- R657: a slice that passes its checks keeps COUNT within COUNT_MAX. -/
theorem count_add_slice_le {s : State} (hs : firstFailure sliceChecks s = none) (h : checkLength s = none) :
    s.engine.count + s.din.slice.length ≤ s.engine.alg.countMax := by
  obtain ⟨b, -, -, hlen, -⟩ := (sliceChecks_pass s).1 hs
  have h1 := slice_length_le s.din
  have h2 := (checkLength_pass s).1 h
  omega

theorem eight_le_naturalBits (a : Alg) : 8 ≤ a.naturalBits := by cases a <;> decide

/-- R656, R67 (v): an output size that passes its check is at least one byte. -/
theorem eight_le_hmacOutBits {a : Alg} {imm : BitVec 16} (h : hmacOutBits a imm % 8 = 0) : 8 ≤ hmacOutBits a imm := by
  unfold hmacOutBits at *
  split at h
  · rw [if_pos ‹_›]; exact eight_le_naturalBits a
  · rename_i hne
    have hpos : imm.toNat ≠ 0 := fun h0 => hne (BitVec.eq_of_toNat_eq h0)
    rw [if_neg hne]; omega

/-! ### The parts of R67, effect by effect -/

theorem inv_outBitsLegal {s : State} (h : Inv s) (hs : s.slot = .hmac) : OutBitsLegal s := (h.2 hs).1
theorem inv_keyInv {s : State} (h : Inv s) (hs : s.slot = .hmac) : KeyInv s := (h.2 hs).2.1
theorem inv_primed {s : State} (h : Inv s) (hs : s.slot = .hmac) : Primed s := (h.2 hs).2.2

/-- R67 (ii), (iii), (iv). -/
theorem effect_engineInv {i : Instr} {s t : State} (hinv : Inv s) (h : Effect i s t) (ht : t.slot ≠ .empty) :
    EngineInv t.engine := by
  cases i with
  | eInit c => obtain ⟨a, -, rfl⟩ := h; exact constructEngine_engineInv a s
  | eReset | eFinalize => obtain ⟨-, rfl⟩ := h; exact engineInv_of_empty rfl rfl
  | eUpdate | hUpdate =>
    obtain ⟨hslot, hslice, hlen, rfl⟩ := h
    exact engineUpdate_engineInv (hinv.1 (by simp [hslot])) (count_add_slice_le hslice hlen)
  | eRelease | hRelease => obtain ⟨-, rfl⟩ := h; exact absurd rfl ht
  | hInit c n =>
    obtain ⟨a, -, -, -, -, rfl⟩ := h
    rw [setResult_engine, constructHmac_engine]; exact absorbed_innerPad_engineInv _ _
  | hSetkey =>
    obtain ⟨-, -, -, rfl⟩ := h
    rw [setResult_engine, hmacSetKey_engine_absorbed]; exact absorbed_innerPad_engineInv _ _
  | hFinalize =>
    obtain ⟨hslot, rfl⟩ := h
    obtain ⟨hipad, -⟩ := inv_keyInv hinv hslot
    rw [setResult_engine, setEngine_engine, hmacReprime_eq_absorbed, hipad]; exact absorbed_innerPad_engineInv _ _
  | hGetkey => obtain ⟨-, rfl⟩ := h; exact hinv.1 ht
  | rdreg n => obtain ⟨r, -, -, rfl⟩ := h; exact hinv.1 ht

/-- What leaves SLOT = HMAC: H_INIT, or over the one that stood there H_SETKEY, H_UPDATE or H_FINALIZE, or a command
that writes nothing but its result. -/
theorem effect_hmac_cases {i : Instr} {s t : State} (h : Effect i s t) (ht : t.slot = .hmac) :
    (∃ c n a r, i = .hInit c n ∧ checkOutBits a n s = none ∧ checkKeySize s = none ∧
      t = (constructHmac a (hmacOutBits a n) s.din.slice s).setResult r) ∨
    (s.slot = .hmac ∧ ∃ r,
      (i = .hSetkey ∧ checkKeySize s = none ∧ t = (hmacSetKey s s.din.slice).setResult r) ∨
      (i = .hUpdate ∧ t = (s.setEngine (engineUpdate s.engine s.din.slice)).setResult r) ∨
      (i = .hFinalize ∧ t = (s.setEngine (hmacReprime s)).setResult r) ∨
      ((i = .hGetkey ∨ ∃ n, i = .rdreg n) ∧ t = s.setResult r)) := by
  cases i with
  | hInit c n => obtain ⟨a, -, -, hout, hkey, rfl⟩ := h; exact .inl ⟨c, n, a, _, rfl, hout, hkey, rfl⟩
  | hSetkey => obtain ⟨hslot, -, hkey, rfl⟩ := h; exact .inr ⟨hslot, _, .inl ⟨rfl, hkey, rfl⟩⟩
  | hUpdate => obtain ⟨hslot, -, -, rfl⟩ := h; exact .inr ⟨hslot, _, .inr (.inl ⟨rfl, rfl⟩)⟩
  | hFinalize => obtain ⟨hslot, rfl⟩ := h; exact .inr ⟨hslot, _, .inr (.inr (.inl ⟨rfl, rfl⟩))⟩
  | hGetkey => obtain ⟨hslot, rfl⟩ := h; exact .inr ⟨hslot, _, .inr (.inr (.inr ⟨.inl rfl, rfl⟩))⟩
  | rdreg n => obtain ⟨r, -, -, rfl⟩ := h; exact .inr ⟨ht, _, .inr (.inr (.inr ⟨.inr ⟨n, rfl⟩, rfl⟩))⟩
  | eInit c => obtain ⟨a, -, rfl⟩ := h; cases ht
  | eReset | eFinalize => obtain ⟨hslot, rfl⟩ := h; cases hslot.symm.trans ht
  | eUpdate => obtain ⟨hslot, -, -, rfl⟩ := h; cases hslot.symm.trans ht
  | eRelease | hRelease => obtain ⟨-, rfl⟩ := h; cases ht

/-- R67 (v). -/
theorem effect_outBitsLegal {i : Instr} {s t : State} (hinv : s.slot = .hmac → OutBitsLegal s) (h : Effect i s t)
    (ht : t.slot = .hmac) : OutBitsLegal t := by
  rcases effect_hmac_cases h ht with ⟨c, n, a, r, -, hout, -, rfl⟩ |
    ⟨hslot, r, ⟨-, -, rfl⟩ | ⟨-, rfl⟩ | ⟨-, rfl⟩ | ⟨-, rfl⟩⟩
  · obtain ⟨hmod, hle⟩ := (checkOutBits_pass a n s).1 hout
    exact ⟨hmod, eight_le_hmacOutBits hmod, by simpa using hle⟩
  · simpa [OutBitsLegal] using hinv hslot
  · simpa [OutBitsLegal] using hinv hslot
  · simpa [OutBitsLegal, hmacReprime_eq_absorbed] using hinv hslot
  · exact hinv hslot

/-- R60, R61, R62. -/
theorem effect_keyInv {i : Instr} {s t : State} (hinv : s.slot = .hmac → KeyInv s) (h : Effect i s t)
    (ht : t.slot = .hmac) : KeyInv t := by
  have hlen := slice_length_le_maxBufferLength s.din
  rcases effect_hmac_cases h ht with ⟨c, n, a, r, -, -, hkey, rfl⟩ |
    ⟨hslot, r, ⟨-, hkey, rfl⟩ | ⟨-, rfl⟩ | ⟨-, rfl⟩ | ⟨-, rfl⟩⟩
  · simpa [KeyInv] using ⟨slice_length_le_keyCapacity hkey, hlen⟩
  · simpa [KeyInv] using ⟨slice_length_le_keyCapacity hkey, hlen⟩
  · simpa [KeyInv] using hinv hslot
  · simpa [KeyInv, hmacReprime_eq_absorbed] using hinv hslot
  · exact hinv hslot

/-- R67 (vi): the message bytes E has absorbed after IPAD. -/
theorem effect_message {i : Instr} {s t : State} {m : List Byte}
    (hm : s.slot = .hmac → s.engine = absorbed s.engine.alg (s.ipad ++ m)) (h : Effect i s t) (ht : t.slot = .hmac) :
    t.engine = absorbed t.engine.alg (t.ipad ++ messageAfter i .ok s.din.slice m) := by
  rcases effect_hmac_cases h ht with ⟨c, n, a, r, rfl, -, -, rfl⟩ |
    ⟨hslot, r, ⟨rfl, -, rfl⟩ | ⟨rfl, rfl⟩ | ⟨rfl, rfl⟩ | ⟨hi, rfl⟩⟩
  · simp [messageAfter]
  · simp [messageAfter, hmacSetKey_engine_absorbed, -hmacSetKey_engine]
  · calc engineUpdate s.engine s.din.slice
        = engineUpdate (absorbed s.engine.alg (s.ipad ++ m)) s.din.slice := by rw [← hm hslot]
      _ = absorbed s.engine.alg (s.ipad ++ (m ++ s.din.slice)) := by rw [engineUpdate_absorbed, List.append_assoc]
      _ = absorbed (engineUpdate s.engine s.din.slice).alg (s.ipad ++ (m ++ s.din.slice)) := by
        rw [engineUpdate_alg]
  · simp [messageAfter, hmacReprime_eq_absorbed]
  · rcases hi with rfl | ⟨n, rfl⟩
    · exact hm hslot
    · exact hm hslot

/-! ### Commands and steps keep R67 -/

/-- A failing command leaves the message bytes, and an effect tracks them. -/
theorem exec_message {i : Instr} {s t : State} {m : List Byte}
    (hm : s.slot = .hmac → s.engine = absorbed s.engine.alg (s.ipad ++ m)) (h : exec i s = .next t)
    (ht : t.slot = .hmac) :
    ∃ r, t.result = some r ∧ t.engine = absorbed t.engine.alg (t.ipad ++ messageAfter i r.status s.din.slice m) := by
  rcases exec_cases h with ⟨c, hc, rfl⟩ | heff
  · exact ⟨_, rfl, by simpa [messageAfter, hc] using hm ht⟩
  · obtain ⟨v, d, hr⟩ := effect_result heff
    exact ⟨_, hr, effect_message hm heff ht⟩

/-- `Primed` names no message, so one message of a primed E gives one of the next. -/
theorem exec_primed {i : Instr} {s t : State} (hp : s.slot = .hmac → Primed s) (h : exec i s = .next t)
    (ht : t.slot = .hmac) : Primed t := by
  obtain ⟨m, hm⟩ : ∃ m, s.slot = .hmac → s.engine = absorbed s.engine.alg (s.ipad ++ m) := by
    by_cases hslot : s.slot = .hmac
    · obtain ⟨m, hm⟩ := hp hslot; exact ⟨m, fun _ => hm⟩
    · exact ⟨[], fun h => absurd h hslot⟩
  obtain ⟨r, -, hmsg⟩ := exec_message hm h ht
  exact ⟨_, hmsg⟩

theorem exec_inv {i : Instr} {s t : State} (hinv : Inv s) (h : exec i s = .next t) : Inv t := by
  rcases exec_cases h with ⟨c, -, rfl⟩ | heff
  · exact hinv
  · exact ⟨effect_engineInv hinv heff, fun ht => ⟨effect_outBitsLegal (inv_outBitsLegal hinv) heff ht,
      effect_keyInv (inv_keyInv hinv) heff ht, exec_primed (inv_primed hinv) h ht⟩⟩

theorem step_inv {s t : State} (hinv : Inv s) (h : step s = .next t) : Inv t := by
  rcases step_cases h with ⟨-, rfl⟩ | ⟨c, rest, i, -, -, hexec⟩ | ⟨c, rest, r, -, -, rfl⟩
  · exact hinv
  · exact exec_inv (s := s.setPort c.din rest) hinv hexec
  · exact hinv

/-- R67 (i): ALG is one of 0..6. -/
theorem alg_code_le (a : Alg) : a.code.toNat ≤ 6 := by cases a <;> decide

/-- R67 (vi): a wrapped engine has counted at least IPAD, a block. -/
theorem bs_le_count_of_primed {s : State} (hk : KeyInv s) (hp : Primed s) : s.engine.bs ≤ s.engine.count := by
  obtain ⟨hipad, -⟩ := hk
  obtain ⟨m, hm⟩ := hp
  have hcount : s.engine.count = (s.ipad ++ m).length := by rw [hm, absorbed_count]
  rw [hcount, List.length_append, hipad, innerPad_length, paddedKey_length]
  exact Nat.le_add_right _ _

/-- Settles O36: a step keeps `Inv`, from which the count follows, and `exec_message` tracks the message bytes. -/
theorem stepKeepsTheInvariantOfR67 : Obligations.StepKeepsTheInvariantOfR67 := by
  refine ⟨fun s t hinv h => ⟨step_inv hinv h, fun _ => alg_code_le _, fun ht => ?_⟩,
    fun i s t m hm h ht => exec_message hm h ht⟩
  have hinv' := step_inv hinv h
  exact bs_le_count_of_primed (inv_keyInv hinv' ht) (inv_primed hinv' ht)

end Sys2Proof.Machine
end

section
/-! Steps at the port (spec/20_memory.md R106, R108): what a step with a command at the port runs, that every step has a
next state, and that the steps of two blocks of a system commute (spec/60_exceptions.md R665). -/

namespace Sys2Proof.Machine

/-- R106: the oldest command of the port is executed. -/
theorem step_of_port {s : State} {c : Command} {rest : List Command} (h : s.port = c :: rest) :
    step s = execCommand exec c rest s := by
  rw [step, h]

/-- Settles O7: the oldest command is executed, and a word that decodes is the command it decodes to. -/
theorem stepRunsTheDecodedCommand : Obligations.StepRunsTheDecodedCommand :=
  fun s _ rest _ hport hdec => (step_of_port hport).trans (execCommand_ok hdec rest s)

/-! ### Every command and every step has a next state (R154, R668) -/

/-- R651: a checked command fails or completes, and goes on either way. -/
theorem runChecked_complete_next (cs : List Check) (v : State → W32) (o : State → List Byte) (u : State → State)
    (s : State) : ∃ t, runChecked cs (fun s => complete (v s) (o s) (u s)) s = .next t := by
  cases hf : firstFailure cs s with
  | some code => exact ⟨_, runChecked_fail hf⟩
  | none => exact ⟨_, runChecked_pass hf⟩

theorem exec_next (i : Instr) (s : State) : ∃ t, exec i s = .next t := by
  cases i with
  | eInit c =>
    simp only [exec, execEInit]
    split <;> exact ⟨_, rfl⟩
  | hInit _ _ | rdreg _ =>
    simp only [exec, execHInit, execRdreg]
    split
    · exact ⟨_, rfl⟩
    · exact runChecked_complete_next _ _ _ _ s
  | eReset | eUpdate | eFinalize | eRelease | hSetkey | hUpdate | hFinalize | hRelease | hGetkey =>
    simp only [exec, execEReset, execEUpdate, execEFinalize, execERelease, execHSetkey, execHUpdate, execHFinalize,
      execHRelease, execHGetkey]
    exact runChecked_complete_next _ _ _ _ s

theorem step_next (s : State) : ∃ t, step s = .next t := by
  cases hport : s.port with
  | nil => exact ⟨s, by rw [step, hport]⟩
  | cons c rest =>
    rw [step_of_port hport]
    cases hdec : decode c.cw with
    | ok i => rw [execCommand_ok hdec]; exact exec_next i _
    | error r => exact ⟨_, execCommand_illegal hdec rest s⟩

/-! ### The blocks of a system (R68, R665) -/

/-- R68: where `f` gives the state a step leaves, a step of block `k` modifies that block by `f`. -/
theorem systemStep_eq_modify {f : State → State} (hf : ∀ s, step s = .next (f s)) (k : Nat) (sys : List State) :
    systemStep k sys = .next (sys.modify k f) := by
  rw [systemStep, List.modify_eq_set_getElem?]
  cases hk : sys[k]? with
  | none => rfl
  | some s => simp [hf]

theorem systemStepTwo_eq_modify {f : State → State} (hf : ∀ s, step s = .next (f s)) (j k : Nat) (sys : List State) :
    systemStepTwo j k sys = .next ((sys.modify j f).modify k f) := by
  simp only [systemStepTwo, systemStep_eq_modify hf]

/-- Settles O10: every step has a next state, so a system's step modifies one place of the list, and modifications of
different places commute and leave each other's. -/
theorem stepsOfDifferentBlocksCommute : Obligations.StepsOfDifferentBlocksCommute := by
  intro sys j k hjk
  choose f hf using step_next
  refine ⟨?_, fun t ht => ?_⟩
  · rw [systemStepTwo_eq_modify hf, systemStepTwo_eq_modify hf, List.modify_modify_ne f f sys hjk]
  · rw [systemStep_eq_modify hf] at ht
    rw [← Host.Outcome.next.inj ht]
    exact List.getElem?_modify_ne f sys hjk

end Sys2Proof.Machine
end

section
/-! The host's side of the port (spec/20_memory.md R101, R102, R105, R113): no command writes the operand, the commands that
wait or KEY_CAPACITY, and a command reads of the operand its slice alone. -/

namespace Sys2Proof.Machine

/-! ### What no command writes (R102, R113) -/

@[simp] theorem discardInstance_port (s : State) : (discardInstance s).port = s.port := by
  unfold discardInstance; split <;> simp
@[simp] theorem discardInstance_din (s : State) : (discardInstance s).din = s.din := by
  unfold discardInstance; split <;> simp

@[simp] theorem constructEngine_keyCapacity (a : Alg) (s : State) :
    (constructEngine a s).keyCapacity = s.keyCapacity := discardInstance_keyCapacity s
@[simp] theorem constructEngine_port (a : Alg) (s : State) : (constructEngine a s).port = s.port :=
  discardInstance_port s
@[simp] theorem constructEngine_din (a : Alg) (s : State) : (constructEngine a s).din = s.din :=
  discardInstance_din s

@[simp] theorem releaseInstance_keyCapacity (s : State) : (releaseInstance s).keyCapacity = s.keyCapacity :=
  zeroize_keyCapacity s
@[simp] theorem releaseInstance_port (s : State) : (releaseInstance s).port = s.port := zeroize_port s
@[simp] theorem releaseInstance_din (s : State) : (releaseInstance s).din = s.din := zeroize_din s

@[simp] theorem constructHmac_port (a : Alg) (n : Nat) (k : List Byte) (s : State) :
    (constructHmac a n k s).port = s.port := discardInstance_port s
@[simp] theorem constructHmac_din (a : Alg) (n : Nat) (k : List Byte) (s : State) :
    (constructHmac a n k s).din = s.din := discardInstance_din s

/-- R102, R113: an effect leaves the operand, the commands that wait and KEY_CAPACITY. -/
theorem effect_port {i : Instr} {s t : State} (h : Effect i s t) :
    t.din = s.din ∧ t.port = s.port ∧ t.keyCapacity = s.keyCapacity := by
  cases i with
  | eInit c => obtain ⟨a, -, rfl⟩ := h; simp
  | hInit c n => obtain ⟨a, -, -, -, -, rfl⟩ := h; simp
  | eRelease | hRelease => obtain ⟨-, rfl⟩ := h; simp
  | eUpdate | hSetkey | hUpdate => obtain ⟨-, -, -, rfl⟩ := h; exact ⟨rfl, rfl, rfl⟩
  | rdreg n => obtain ⟨r, -, -, rfl⟩ := h; exact ⟨rfl, rfl, rfl⟩
  | eReset | eFinalize | hFinalize | hGetkey => obtain ⟨-, rfl⟩ := h; exact ⟨rfl, rfl, rfl⟩

theorem exec_port {i : Instr} {s t : State} (h : exec i s = .next t) :
    t.din = s.din ∧ t.port = s.port ∧ t.keyCapacity = s.keyCapacity := by
  rcases exec_cases h with ⟨c, -, rfl⟩ | heff
  · exact ⟨rfl, rfl, rfl⟩
  · exact effect_port heff

/-- R558, R600: H_GETKEY and RDREG leave the engine. -/
theorem exec_engine_of_read {i : Instr} {s t : State} (h : exec i s = .next t)
    (hi : i = .hGetkey ∨ ∃ r, i = .rdreg r) : t.engine = s.engine := by
  rcases exec_cases h with ⟨c, -, rfl⟩ | heff
  · rfl
  · rcases hi with rfl | ⟨n, rfl⟩
    · obtain ⟨-, rfl⟩ := heff; rfl
    · obtain ⟨r, -, -, rfl⟩ := heff; rfl

/-- Settles O31: a failing command and every effect leave the host's side, and the two reads leave the engine. -/
theorem hostOperandsAreNotWritten : Obligations.HostOperandsAreNotWritten := by
  intro i s t h
  obtain ⟨hdin, hport, hcap⟩ := exec_port h
  exact ⟨hdin, hport, hcap, exec_engine_of_read h⟩

/-! ### What a command reads of its operand (R101, R105, R153)

`s.setPort d r` is `s` with the operand `d` presented in the place of its own. -/

/-- R153: the commands that take data. -/
def takesData : Instr → Bool
  | .eUpdate | .hInit _ _ | .hSetkey | .hUpdate => true
  | .eInit _ | .eReset | .eFinalize | .eRelease | .hFinalize | .hRelease | .hGetkey | .rdreg _ => false

/-- R101, R655: BUF[off..off+len) is a slice of BUF. -/
def Din.HasSlice (d : Din) : Prop :=
  ∃ b, d.buf = some b ∧ 0 ≤ d.offset ∧ 0 ≤ d.length ∧ d.offset + d.length ≤ b.length

theorem sliceChecks_none_iff (s : State) : firstFailure sliceChecks s = none ↔ s.din.HasSlice := sliceChecks_pass s

/-- R101, R105: the two operands have a slice, of one length and with the same bytes, wherever it lies. -/
structure Din.SameSlice (d d' : Din) : Prop where
  left : d.HasSlice
  right : d'.HasSlice
  len : d'.len = d.len
  slice : d'.slice = d.slice

/-! The checks, whatever operand is presented. -/

@[simp] theorem engineChecks_setPort (s : State) (d : Din) (r : List Command) :
    firstFailure engineChecks (s.setPort d r) = firstFailure engineChecks s := rfl
@[simp] theorem hmacChecks_setPort (s : State) (d : Din) (r : List Command) :
    firstFailure hmacChecks (s.setPort d r) = firstFailure hmacChecks s := rfl
@[simp] theorem checkOutBits_setPort (a : Alg) (n : BitVec 16) (s : State) (d : Din) (r : List Command) :
    checkOutBits a n (s.setPort d r) = checkOutBits a n s := rfl
@[simp] theorem regChecks_setPort (reg : Reg) (s : State) (d : Din) (r : List Command) :
    firstFailure (regChecks reg) (s.setPort d r) = firstFailure (regChecks reg) s :=
  regChecks_congr (setPort_slot s d r) reg

theorem sliceChecks_setPort {s : State} {d : Din} (h : s.din.SameSlice d) (r : List Command) :
    firstFailure sliceChecks (s.setPort d r) = firstFailure sliceChecks s :=
  ((sliceChecks_none_iff (s.setPort d r)).2 h.right).trans ((sliceChecks_none_iff s).2 h.left).symm

theorem checkLength_setPort {s : State} {d : Din} (h : s.din.SameSlice d) (r : List Command) :
    checkLength (s.setPort d r) = checkLength s := by
  simp [checkLength, Din.length, h.len]

theorem checkKeySize_setPort {s : State} {d : Din} (h : s.din.SameSlice d) (r : List Command) :
    checkKeySize (s.setPort d r) = checkKeySize s := by
  simp [checkKeySize, Din.length, h.len]

/-! The updates of the slot leave what is presented, whatever it is. -/

theorem zeroize_setPort (s : State) (d : Din) (r : List Command) :
    zeroize (s.setPort d r) = (zeroize s).setPort d r := by
  by_cases h : s.slot = .hmac
  · simp only [zeroize, setPort_slot, h, if_true]; rfl
  · simp only [zeroize, setPort_slot, h, if_false]; rfl

theorem discardInstance_setPort (s : State) (d : Din) (r : List Command) :
    discardInstance (s.setPort d r) = (discardInstance s).setPort d r := by
  by_cases h : s.slot = .empty
  · simp [discardInstance, h]
  · simp [discardInstance, h, zeroize_setPort]

theorem releaseInstance_setPort (s : State) (d : Din) (r : List Command) :
    releaseInstance (s.setPort d r) = (releaseInstance s).setPort d r :=
  congrArg (State.setSlot · .empty) (zeroize_setPort s d r)

theorem constructEngine_setPort (a : Alg) (s : State) (d : Din) (r : List Command) :
    constructEngine a (s.setPort d r) = (constructEngine a s).setPort d r := by
  rw [constructEngine, discardInstance_setPort]; rfl

theorem constructHmac_setPort (a : Alg) (n : Nat) (k : List Byte) (s : State) (d : Din) (r : List Command) :
    constructHmac a n k (s.setPort d r) = (constructHmac a n k s).setPort d r := by
  rw [constructHmac, discardInstance_setPort]; rfl

/-- R651: where the checks, the result and the update do not depend on what is presented, a checked command does the same
with anything presented, and the state it leaves presents that still. -/
theorem runChecked_setPort {cs : List Check} {v : State → W32} {o : State → List Byte} {u : State → State} {s t : State}
    {d : Din} {r : List Command} (h : runChecked cs (fun s => complete (v s) (o s) (u s)) s = .next t)
    (hcs : firstFailure cs (s.setPort d r) = firstFailure cs s) (hv : v (s.setPort d r) = v s)
    (ho : o (s.setPort d r) = o s) (hu : u (s.setPort d r) = (u s).setPort d r) :
    runChecked cs (fun s => complete (v s) (o s) (u s)) (s.setPort d r) = .next (t.setPort d r) := by
  rcases runChecked_cases h with ⟨code, hf, rfl⟩ | ⟨hf, ht⟩
  · exact runChecked_fail (hcs.trans hf)
  · rw [runChecked_pass (hcs.trans hf), complete_next ht, complete_eq, hv, ho, hu]
    rfl

/-- R101, R105, R153: a command does the same with any operand that has the same slice; one that takes no data does the same
with any operand at all, and none reads the commands that wait. -/
theorem exec_setPort {i : Instr} {s t : State} {d : Din} (hd : takesData i = true → s.din.SameSlice d)
    (r : List Command) (h : exec i s = .next t) : exec i (s.setPort d r) = .next (t.setPort d r) := by
  cases i with
  | eInit c =>
    simp only [exec, execEInit] at h ⊢
    split at h
    · cases h; rfl
    · rw [complete_next h, complete_eq, constructEngine_setPort]; rfl
  | eReset | eFinalize | hFinalize | hGetkey =>
    simp only [exec, execEReset, execEFinalize, execHFinalize, execHGetkey] at h ⊢
    exact runChecked_setPort h rfl rfl rfl rfl
  | eRelease | hRelease =>
    simp only [exec, execERelease, execHRelease] at h ⊢
    exact runChecked_setPort h rfl rfl rfl (releaseInstance_setPort s d r)
  | eUpdate | hUpdate | hSetkey =>
    simp only [exec, execEUpdate, execHUpdate, execHSetkey] at h ⊢
    have hsame := hd rfl
    refine runChecked_setPort h ?_ rfl rfl ?_
    · simp only [firstFailure_append, firstFailure_single, engineChecks_setPort, hmacChecks_setPort,
        sliceChecks_setPort hsame, checkLength_setPort hsame, checkKeySize_setPort hsame]
    · rw [setPort_din, hsame.slice]; rfl
  | hInit c n =>
    simp only [exec, execHInit] at h ⊢
    have hsame := hd rfl
    split at h
    · cases h; rfl
    · refine runChecked_setPort h ?_ rfl rfl ?_
      · simp only [firstFailure_append, firstFailure_cons, firstFailure_nil, sliceChecks_setPort hsame,
          checkOutBits_setPort, checkKeySize_setPort hsame]
      · rw [setPort_din, hsame.slice, constructHmac_setPort]
  | rdreg n =>
    simp only [exec, execRdreg] at h ⊢
    split at h
    · cases h; rfl
    · exact runChecked_setPort h (regChecks_setPort _ s d r) (regVal_congr rfl rfl rfl rfl _) rfl rfl

/-- A command does the same with such an operand in the place of its own, and leaves it there. -/
theorem exec_otherOperand {i : Instr} {s t : State} {d : Din} (hd : takesData i = true → s.din.SameSlice d)
    (h : exec i s = .next t) : exec i { s with din := d } = .next { t with din := d } := by
  obtain ⟨-, hport, -⟩ := exec_port h
  calc exec i { s with din := d }
      = .next (t.setPort d s.port) := exec_setPort hd s.port h
    _ = .next { t with din := d } := by rw [← hport]; rfl

/-- R105: two buffers that hold the same slice. -/
theorem sameSlice_of_buf {d : Din} {b b' : List Byte} {off' : W32} (hbuf : d.buf = some b)
    (hoff : 0 ≤ d.off.toInt) (hlen : 0 ≤ d.len.toInt) (hend : d.off.toInt + d.len.toInt ≤ b.length)
    (hoff' : 0 ≤ off'.toInt) (hend' : off'.toInt + d.len.toInt ≤ b'.length)
    (hslice : (b'.drop off'.toInt.toNat).take d.len.toInt.toNat = (b.drop d.off.toInt.toNat).take d.len.toInt.toNat) :
    d.SameSlice ⟨some b', off', d.len⟩ where
  left := ⟨b, hbuf, hoff, hlen, hend⟩
  right := ⟨b', rfl, hoff', hlen, hend'⟩
  len := rfl
  slice := by simpa [Din.slice, memRead, Din.offset, Din.length, sext32, hbuf] using hslice

/-- Settles O33: the two operands have the same slice, and no command reads more of its operand. -/
theorem onlyTheSliceIsRead : Obligations.OnlyTheSliceIsRead := by
  intro i s t b b' off' hbuf hoff hlen hend hoff' hend' hslice h
  exact exec_otherOperand (fun _ => sameSlice_of_buf hbuf hoff hlen hend hoff' hend' hslice) h

end Sys2Proof.Machine
end

section
/-! The decoder and the encoder (spec/30_encoding.md R155, R158, R161): when each opcode's decoder accepts a word, that a
word decodes exactly where it is the encoding of a command, which words are illegal, and which row of the opcode table
selects a word. -/

namespace Sys2Proof

/-! ### The four decoders a listed opcode selects (R158 (b) to (f)) -/

theorem decodeFixed_eq_ok {i j : Instr} {w : W32} :
    decodeFixed i w = .ok j ↔ cwRsv w = 0#4 ∧ cwAlg w = 0#4 ∧ cwImm w = 0#16 ∧ i = j := by
  unfold decodeFixed
  split_ifs <;> simp_all

theorem decodeEInit_eq_ok {j : Instr} {w : W32} :
    decodeEInit w = .ok j ↔
      cwRsv w = 0#4 ∧ Alg.ofCode? (cwAlg w) ≠ none ∧ cwImm w = 0#16 ∧ .eInit (cwAlg w) = j := by
  unfold decodeEInit
  split_ifs <;> simp_all

theorem decodeHInit_eq_ok {j : Instr} {w : W32} :
    decodeHInit w = .ok j ↔
      cwRsv w = 0#4 ∧ Alg.ofCode? (cwAlg w) ≠ none ∧ .hInit (cwAlg w) (cwImm w) = j := by
  unfold decodeHInit
  split_ifs <;> simp_all

theorem decodeRdreg_eq_ok {j : Instr} {w : W32} :
    decodeRdreg w = .ok j ↔
      cwRsv w = 0#4 ∧ cwAlg w = 0#4 ∧ Reg.ofNumber? (cwImm w) ≠ none ∧ .rdreg (cwImm w) = j := by
  unfold decodeRdreg
  split_ifs <;> simp_all

/-- R155: the opcodes of the commands whose word is fixed whole. -/
abbrev fixedOpcodes : List (BitVec 8) := [0x02#8, 0x03#8, 0x04#8, 0x05#8, 0x12#8, 0x13#8, 0x14#8, 0x15#8, 0x16#8]

/-- R155: an opcode of a fixed word is that of one command. -/
theorem decode_fixedOpcode {w : W32} (h : cwOpc w ∈ fixedOpcodes) :
    ∃ i : Instr, i.wellFormed = true ∧ encode i = packFields (cwOpc w) 0#4 0#16 ∧ decode w = decodeFixed i w := by
  simp only [fixedOpcodes, List.mem_cons, List.not_mem_nil, or_false] at h
  rcases h with h | h | h | h | h | h | h | h | h <;> rw [h]
  · exact ⟨.eReset, rfl, rfl, decode_eReset h⟩
  · exact ⟨.eUpdate, rfl, rfl, decode_eUpdate h⟩
  · exact ⟨.eFinalize, rfl, rfl, decode_eFinalize h⟩
  · exact ⟨.eRelease, rfl, rfl, decode_eRelease h⟩
  · exact ⟨.hSetkey, rfl, rfl, decode_hSetkey h⟩
  · exact ⟨.hUpdate, rfl, rfl, decode_hUpdate h⟩
  · exact ⟨.hFinalize, rfl, rfl, decode_hFinalize h⟩
  · exact ⟨.hRelease, rfl, rfl, decode_hRelease h⟩
  · exact ⟨.hGetkey, rfl, rfl, decode_hGetkey h⟩

/-- R155: an opcode is unlisted, that of a fixed word, or that of one of the three commands with a field. -/
theorem opcode_cases (o : BitVec 8) :
    o ∉ listedOpcodes ∨ o ∈ fixedOpcodes ∨ o = 0x01#8 ∨ o = 0x11#8 ∨ o = 0x21#8 := by
  simp only [listedOpcodes, fixedOpcodes, List.mem_cons, List.not_mem_nil, or_false]
  tauto

/-! ### Decoding and encoding are inverse (R155, R159, R161) -/

theorem decode_encode {i : Instr} (h : i.wellFormed = true) : decode (encode i) = .ok i := by
  cases i with
  | eInit a =>
    rw [encode, decode_eInit (cwOpc_packFields ..), decodeEInit_eq_ok]
    simpa [Instr.wellFormed, Option.isSome_iff_ne_none] using h
  | hInit a n =>
    rw [encode, decode_hInit (cwOpc_packFields ..), decodeHInit_eq_ok]
    simpa [Instr.wellFormed, Option.isSome_iff_ne_none] using h
  | rdreg n =>
    rw [encode, decode_rdreg (cwOpc_packFields ..), decodeRdreg_eq_ok]
    simpa [Instr.wellFormed, Option.isSome_iff_ne_none] using h
  | eReset | eUpdate | eFinalize | eRelease | hSetkey | hUpdate | hFinalize | hRelease | hGetkey => rfl

/-- R152: a word is the one its fields pack to, RSV being 0. -/
theorem packFields_eq {w : W32} {o : BitVec 8} {a : BitVec 4} {n : BitVec 16} (ho : cwOpc w = o) (hr : cwRsv w = 0#4)
    (ha : cwAlg w = a) (hn : cwImm w = n) : packFields o a n = w := by
  rw [← ho, ← ha, ← hn, packFields_fields w hr]

theorem wellFormed_and_encode_of_decode {w : W32} {i : Instr} (h : decode w = .ok i) :
    i.wellFormed = true ∧ encode i = w := by
  rcases opcode_cases (cwOpc w) with ho | ho | ho | ho | ho
  · rw [decode_unlisted ho] at h; cases h
  · obtain ⟨j, hwf, henc, hdec⟩ := decode_fixedOpcode ho
    obtain ⟨hr, ha, hn, rfl⟩ := decodeFixed_eq_ok.1 (hdec.symm.trans h)
    exact ⟨hwf, henc.trans (packFields_eq rfl hr ha hn)⟩
  · obtain ⟨hr, ha, hn, rfl⟩ := decodeEInit_eq_ok.1 ((decode_eInit ho).symm.trans h)
    exact ⟨Option.isSome_iff_ne_none.2 ha, packFields_eq ho hr rfl hn⟩
  · obtain ⟨hr, ha, rfl⟩ := decodeHInit_eq_ok.1 ((decode_hInit ho).symm.trans h)
    exact ⟨Option.isSome_iff_ne_none.2 ha, packFields_eq ho hr rfl rfl⟩
  · obtain ⟨hr, ha, hn, rfl⟩ := decodeRdreg_eq_ok.1 ((decode_rdreg ho).symm.trans h)
    exact ⟨Option.isSome_iff_ne_none.2 hn, packFields_eq ho hr ha rfl⟩

/-- Settles O2: the opcode of the packed word selects the command's decoder, which finds the command's own fields. -/
theorem decodeOfEncodeIsTheCommand : Obligations.DecodeOfEncodeIsTheCommand := fun _ h => decode_encode h

/-- Settles O3: the decoder that accepted the word checked that RSV is 0 and fixed every field the command does not hold. -/
theorem decodedWordIsTheCommandsOwn : Obligations.DecodedWordIsTheCommandsOwn :=
  fun _ _ h => wellFormed_and_encode_of_decode h

/-- Settles O1, by decoding the twelve words. -/
theorem writtenCommandWordsDecode : Obligations.WrittenCommandWordsDecode :=
  ⟨rfl, rfl, rfl, rfl, rfl, rfl, rfl, rfl, rfl, rfl, rfl, rfl⟩

/-! ### Illegal words (R158, R652, R653) -/

/-- R65: the register numbers. -/
theorem ofNumber?_eq_none_iff (n : BitVec 16) :
    Reg.ofNumber? n = none ↔ n ∉ [0x0#16, 0x1#16, 0x2#16, 0x3#16, 0x10#16, 0x11#16] := by
  unfold Reg.ofNumber?
  split_ifs <;> simp_all

theorem exists_error_iff {ε α : Type} (x : Except ε α) : (∃ r, x = .error r) ↔ ¬ ∃ a, x = .ok a := by
  cases x <;> simp

/-- R158: the six conditions, by the opcode the word has: each decoder rejects the conditions that can hold of its opcode. -/
theorem decode_error_iff (w : W32) : (∃ r, decode w = .error r) ↔
    cwOpc w ∉ listedOpcodes ∨ cwRsv w ≠ 0#4 ∨ (cwOpc w ∈ [0x01#8, 0x11#8] ∧ 7 ≤ (cwAlg w).toNat) ∨
    (cwOpc w ∉ [0x01#8, 0x11#8] ∧ cwAlg w ≠ 0#4) ∨ (cwOpc w ∉ [0x11#8, 0x21#8] ∧ cwImm w ≠ 0#16) ∨
    (cwOpc w = 0x21#8 ∧ cwImm w ∉ [0x0#16, 0x1#16, 0x2#16, 0x3#16, 0x10#16, 0x11#16]) := by
  rw [exists_error_iff, ← ofCode?_eq_none_iff, ← ofNumber?_eq_none_iff]
  rcases opcode_cases (cwOpc w) with ho | ho | ho | ho | ho
  · simp [decode_unlisted ho, ho]
  · have hfixed : ∀ o ∈ fixedOpcodes, o ∈ listedOpcodes ∧ o ∉ [0x01#8, 0x11#8] ∧ o ∉ [0x11#8, 0x21#8] ∧ o ≠ 0x21#8 := by
      decide
    obtain ⟨hlisted, hnoInit, hnoImm, hnoReg⟩ := hfixed _ ho
    obtain ⟨j, -, -, hdec⟩ := decode_fixedOpcode ho
    simp [hdec, decodeFixed_eq_ok, hlisted, hnoInit, hnoImm, hnoReg, -not_and, not_and_or, -List.mem_cons]
  · simp [decode_eInit ho, decodeEInit_eq_ok, ho, -not_and, not_and_or]
  · simp [decode_hInit ho, decodeHInit_eq_ok, ho, -not_and, not_and_or]
  · simp [decode_rdreg ho, decodeRdreg_eq_ok, ho, -not_and, not_and_or]

/-! ### The rows of the opcode table (R155) -/

theorem cwOpc_and (w m : W32) : cwOpc (w &&& m) = cwOpc w &&& cwOpc m := BitVec.extractLsb'_and
theorem cwAlg_and (w m : W32) : cwAlg (w &&& m) = cwAlg w &&& cwAlg m := BitVec.extractLsb'_and
theorem cwRsv_and (w m : W32) : cwRsv (w &&& m) = cwRsv w &&& cwRsv m := BitVec.extractLsb'_and
theorem cwImm_and (w m : W32) : cwImm (w &&& m) = cwImm w &&& cwImm m := BitVec.extractLsb'_and

/-- R155: every row selects its own command's word. -/
theorem rowSelects (i : Instr) : Laws.RowSelects.Statement i := by
  cases i with
  | eInit a => exact Laws.RowSelects.eInit a
  | eReset => exact Laws.RowSelects.eReset
  | eUpdate => exact Laws.RowSelects.eUpdate
  | eFinalize => exact Laws.RowSelects.eFinalize
  | eRelease => exact Laws.RowSelects.eRelease
  | hInit a n => exact Laws.RowSelects.hInit a n
  | hSetkey => exact Laws.RowSelects.hSetkey
  | hUpdate => exact Laws.RowSelects.hUpdate
  | hFinalize => exact Laws.RowSelects.hFinalize
  | hRelease => exact Laws.RowSelects.hRelease
  | hGetkey => exact Laws.RowSelects.hGetkey
  | rdreg n => exact Laws.RowSelects.rdreg n

/-- R155: the mask of every row fixes OPC and RSV, that of a row without an algorithm ALG, and that of a row without a number
IMM; the value's fixed fields are 0 but for OPC. -/
theorem opcodeRows_fields : ∀ r ∈ opcodeRows, cwOpc r.mask = 0xFF#8 ∧ cwOpc r.value ∈ listedOpcodes ∧
    (cwRsv r.mask = 0xF#4 ∧ cwRsv r.value = 0#4) ∧
    (cwOpc r.value ∉ [0x01#8, 0x11#8] → cwAlg r.mask = 0xF#4 ∧ cwAlg r.value = 0#4) ∧
    (cwOpc r.value ∉ [0x11#8, 0x21#8] → cwImm r.mask = 0xFFFF#16 ∧ cwImm r.value = 0#16) := by decide

/-- R155: a field that the mask fixes whole is the row's. -/
theorem field_of_selects {n : Nat} {r : OpcodeRow} {w : W32} {f : W32 → BitVec n}
    (hf : ∀ w m, f (w &&& m) = f w &&& f m) (hmask : f r.mask = BitVec.allOnes n) (h : r.selects w = true) :
    f w = f r.value := by
  have hw : w &&& r.mask = r.value := beq_iff_eq.1 h
  rw [← hw, hf, hmask, BitVec.and_allOnes]

theorem cwOpc_of_selects {r : OpcodeRow} {w : W32} (hr : r ∈ opcodeRows) (h : r.selects w = true) :
    cwOpc w = cwOpc r.value := by
  obtain ⟨hmask, -⟩ := opcodeRows_fields r hr
  exact field_of_selects cwOpc_and hmask h

theorem opcodeRows_opc_nodup : (opcodeRows.map fun r => cwOpc r.value).Nodup := by decide

/-- R155: no word selects two rows. -/
theorem row_unique {r r' : OpcodeRow} {w : W32} (hr : r ∈ opcodeRows) (hr' : r' ∈ opcodeRows) (h : r.selects w = true)
    (h' : r'.selects w = true) : r' = r :=
  List.inj_on_of_nodup_map opcodeRows_opc_nodup hr' hr
    ((cwOpc_of_selects hr' h').symm.trans (cwOpc_of_selects hr h))

/-- R155: a decoded word selects the row of its command. -/
theorem row_of_decode {w : W32} {i : Instr} (h : decode w = .ok i) :
    ∃ r ∈ opcodeRows, r.mnemonic = i.mnemonic ∧ r.selects w = true := by
  obtain ⟨-, rfl⟩ := wellFormed_and_encode_of_decode h
  exact rowSelects i

/-- R155, R158: an illegal word that selects a row has an algorithm code or a register number that the row excludes; the
other conditions of R158 fail by the bits the row fixes. -/
theorem excluded_of_selects {w : W32} {r : OpcodeRow} (hr : r ∈ opcodeRows) (h : r.selects w = true)
    (hbad : ∃ e, decode w = .error e) :
    ((r.mnemonic = "E_INIT" ∨ r.mnemonic = "H_INIT") ∧ 7 ≤ (cwAlg w).toNat) ∨
    (r.mnemonic = "RDREG" ∧ cwImm w ∉ [0x0#16, 0x1#16, 0x2#16, 0x3#16, 0x10#16, 0x11#16]) := by
  have hopc := cwOpc_of_selects hr h
  obtain ⟨-, hlisted, ⟨hrm, hrv⟩, halg, himm⟩ := opcodeRows_fields r hr
  have hnames : ∀ r ∈ opcodeRows, (cwOpc r.value ∈ [0x01#8, 0x11#8] → r.mnemonic = "E_INIT" ∨ r.mnemonic = "H_INIT") ∧
    (cwOpc r.value = 0x21#8 → r.mnemonic = "RDREG") := by decide
  obtain ⟨hinit, hreg⟩ := hnames r hr
  rw [decode_error_iff, hopc] at hbad
  rcases hbad with ho | hrsv | ⟨ho, ha⟩ | ⟨ho, ha⟩ | ⟨ho, hn⟩ | ⟨ho, hn⟩
  · exact absurd hlisted ho
  · exact absurd ((field_of_selects cwRsv_and hrm h).trans hrv) hrsv
  · exact .inl ⟨hinit ho, ha⟩
  · obtain ⟨ham, hav⟩ := halg ho
    exact absurd ((field_of_selects cwAlg_and ham h).trans hav) ha
  · obtain ⟨hnm, hnv⟩ := himm ho
    exact absurd ((field_of_selects cwImm_and hnm h).trans hnv) hn
  · exact .inr ⟨hreg ho, hn⟩

/-- Settles O5: a decoded word is its command's encoding, which the command's row selects; the rows' opcodes differ, so it is
the only one, and a word that selects a row and does not decode is one the row's constraints exclude. -/
theorem opcodeRowsAgreeWithTheDecoder : Obligations.OpcodeRowsAgreeWithTheDecoder := by
  refine ⟨fun w i h => ?_, fun w r hr h => ?_⟩
  · obtain ⟨r, hr, hm, hs⟩ := row_of_decode h
    exact ⟨r, hr, hm, hs, fun r' hr' hs' => row_unique hr hr' hs hs'⟩
  · cases hdec : decode w with
    | ok i =>
      obtain ⟨r', hr', hm, hs⟩ := row_of_decode hdec
      rw [row_unique hr hr' h hs] at hm
      exact .inl ⟨i, rfl, hm.symm⟩
    | error e => exact .inr (excluded_of_selects hr h ⟨e, hdec⟩)

end Sys2Proof
end

section
/-! The commands at the port as words (spec/30_encoding.md R153, R154, R158): what a step does with an illegal word, that
every command returns a result and one without data ignores its operand, and the words of the assembler lines (R162,
R163). -/

namespace Sys2Proof.Machine

/-- R158, R652, R653: a step with an illegal word at the port fails. -/
theorem step_illegal {s : State} {c : Command} {rest : List Command} {r : Illegal} (hport : s.port = c :: rest)
    (h : decode c.cw = .error r) : step s = .next (failed .illegal (s.setPort c.din rest)) :=
  (step_of_port hport).trans (execCommand_illegal h rest s)

/-- Settles O4: each opcode's decoder rejects just what R158 lists for it, and an illegal word's step is a failure. -/
theorem illegalExactlyByTheSixConditions : Obligations.IllegalExactlyByTheSixConditions :=
  ⟨decode_error_iff, fun _ _ _ _ hport h => step_illegal hport h, .opcode, rfl⟩

/-- Settles O9: a failing command and every effect return a result, and there is no third case. -/
theorem everyCommandReturnsOneResult : Obligations.EveryCommandReturnsOneResult := by
  intro i s
  obtain ⟨t, ht⟩ := exec_next i s
  rcases exec_cases ht with ⟨c, -, rfl⟩ | heff
  · exact ⟨_, _, ht, failed_result c s⟩
  · obtain ⟨v, d, hresult⟩ := effect_result heff
    exact ⟨t, _, ht, hresult⟩

/-- Settles O32: only the four commands that take data need the two operands to have the same slice. -/
theorem commandsWithoutDataIgnoreTheOperand : Obligations.CommandsWithoutDataIgnoreTheOperand := by
  intro i s t d hEUpdate hHInit hHSetkey hHUpdate h
  have hnoData : takesData i = false := by
    cases i with
    | eUpdate => exact absurd rfl hEUpdate
    | hInit a n => exact absurd rfl (hHInit a n)
    | hSetkey => exact absurd rfl hHSetkey
    | hUpdate => exact absurd rfl hHUpdate
    | eInit _ | eReset | eFinalize | eRelease | hFinalize | hRelease | hGetkey | rdreg _ => rfl
  exact exec_otherOperand (by simp [hnoData]) h

/-! ### The words of the assembler lines (R162, R163) -/

/-- Joining two words by OR joins them field by field. -/
theorem packFields_or (o p : BitVec 8) (a b : BitVec 4) (n m : BitVec 16) :
    packFields o a n ||| packFields p b m = packFields (o ||| p) (a ||| b) (n ||| m) := by
  have h : (o ++ a ++ 0#4 ++ n : BitVec 32) ||| (p ++ b ++ 0#4 ++ m) =
      (o ||| p) ++ (a ||| b) ++ (0#4 ||| 0#4) ++ (n ||| m) := by
    rw [BitVec.or_append, BitVec.or_append, BitVec.or_append]
  simpa [packFields] using h

/-- R162: `alg<<20` is the word of ALG alone, and a number below 2^16 that of IMM alone. -/
theorem shiftLeft_eq_packFields (a : BitVec 4) : a.zeroExtend 32 <<< 20 = packFields 0#8 a 0#16 := by
  revert a; decide

theorem zeroExtend_eq_packFields (n : BitVec 16) : n.zeroExtend 32 = packFields 0#8 0#4 n :=
  BitVec.setWidth_eq_append (by decide)

/-- R162: `base | alg<<20 | low` packs its fields. -/
theorem asmWord_eq_packFields (o : BitVec 8) (a : BitVec 4) (n : BitVec 16) :
    asmWord (packFields o 0#4 0#16) a (n.zeroExtend 32) = packFields o a n := by
  rw [asmWord, shiftLeft_eq_packFields, zeroExtend_eq_packFields, packFields_or, packFields_or]
  simp

theorem asmWord_eInit (a : BitVec 4) : asmWord 0x01000000 a 0 = encode (.eInit a) := asmWord_eq_packFields 0x01#8 a 0#16

/-- R162: an output size below 2^16 is IMM. -/
theorem asmWord_hInit (a : BitVec 4) {n : Nat} (h : n < 2 ^ 16) :
    asmWord 0x11000000 a (BitVec.ofNat 32 n) = encode (.hInit a (BitVec.ofNat 16 n)) := by
  have hn : BitVec.ofNat 32 n = (BitVec.ofNat 16 n).zeroExtend 32 := by
    apply BitVec.eq_of_toNat_eq
    simp; omega
  rw [hn]
  exact asmWord_eq_packFields 0x11#8 a _

/-- Settles O6: the lines with an operand in their word pack its field, and every other word is its command's, closed. -/
theorem assemblerLinesEncodeTheirCommands : Obligations.AssemblerLinesEncodeTheirCommands := by
  refine ⟨fun a => ?_, fun a n b off len hn => ?_, fun r => ?_, ⟨rfl, rfl, rfl, rfl, rfl, rfl⟩,
    fun b off len => ⟨rfl, rfl, rfl, rfl, rfl, rfl, rfl⟩, fun a b off len => ?_⟩
  · exact congrArg (fun w => [w]) (asmWord_eInit a.code)
  · exact congrArg (fun w => [w]) (asmWord_hInit a.code hn)
  · cases r <;> rfl
  · exact congrArg (fun w => [w, encode .eUpdate, encode .eFinalize]) (asmWord_eInit a.code)

end Sys2Proof.Machine
end

section
/-! The E.HASH line (spec/30_encoding.md R163): the commands of a line in turn, the engine's digest, which does not depend on
what the compression scratch held, and where the line stops. -/

namespace Sys2Proof.Machine

/-! ### The scratch is no input of a digest (R59, R256, R260) -/

theorem drainPending_scratch (e : Engine) (x : Scratch) :
    ∃ y, drainPending { e with scratch := x } = { drainPending e with scratch := y } := by
  have hiff : Engine.plen { e with scratch := x } = Engine.bs { e with scratch := x } ↔ e.plen = e.bs := Iff.rfl
  by_cases h : e.plen = e.bs
  · exact ⟨.cleared, by rw [drainPending, drainPending, if_pos h, if_pos (hiff.2 h)]⟩
  · exact ⟨x, by rw [drainPending, drainPending, if_neg h, if_neg (mt hiff.1 h)]⟩

theorem engineFeed_scratch (e : Engine) (x : Scratch) (b : Byte) :
    ∃ y, engineFeed { e with scratch := x } b = { engineFeed e b with scratch := y } :=
  drainPending_scratch { e with count := e.count + 1, pbuf := e.pbuf ++ [b] } x

theorem foldl_engineFeed_scratch (d : List Byte) (e : Engine) (x : Scratch) :
    ∃ y, d.foldl engineFeed { e with scratch := x } = { d.foldl engineFeed e with scratch := y } := by
  induction d generalizing e x with
  | nil => exact ⟨x, rfl⟩
  | cons b d ih =>
    obtain ⟨y, hy⟩ := engineFeed_scratch e x b
    obtain ⟨z, hz⟩ := ih (engineFeed e b) y
    exact ⟨z, by rw [List.foldl_cons, hy, hz, List.foldl_cons]⟩

theorem engineDigest_scratch (e : Engine) (x : Scratch) : engineDigest { e with scratch := x } = engineDigest e := by
  simp only [engineDigest, engineFinish, compressBlocks_chain]
  rfl

/-- R264: the digest of what a constructed engine absorbs, whatever stood in the engine's place. -/
theorem engineDigest_engineUpdate_engineConstruct (a : Alg) (e : Engine) (d : List Byte) :
    engineDigest (engineUpdate (engineConstruct a e) d) = digest a d := by
  obtain ⟨y, hy⟩ := foldl_engineFeed_scratch d (engineConstruct a .zero) e.scratch
  calc engineDigest (engineUpdate (engineConstruct a e) d)
      = engineDigest (d.foldl engineFeed { engineConstruct a .zero with scratch := e.scratch }) := by
        rw [engineUpdate_eq_foldl_engineFeed (engineConstruct_plen_lt a e)]; rfl
    _ = engineDigest (d.foldl engineFeed (engineConstruct a .zero)) := by rw [hy, engineDigest_scratch]
    _ = digest a d := by
        rw [digest, engineUpdate_eq_foldl_engineFeed (engineConstruct_plen_lt a .zero)]

/-! ### The commands of a line in turn (R163) -/

@[simp] theorem setPort_issueFirst (s : State) (c : Command) (d : Din) (r : List Command) :
    (s.issueFirst c).setPort d r = s.setPort d r := rfl

theorem step_issueFirst {w : W32} {i : Instr} (h : decode w = .ok i) (d : Din) (s : State) :
    step (s.issueFirst ⟨w, d⟩) = exec i (s.setPort d s.port) := by
  rw [step_of_port (issueFirst_port s ⟨w, d⟩), execCommand_ok (c := ⟨w, d⟩) h, setPort_issueFirst]

theorem runCommands_of_ok {w : W32} {i : Instr} {d : Din} {s t : State} (h : decode w = .ok i)
    (ht : exec i (s.setPort d s.port) = .next t) (hok : t.lastOk = true) (cs : List Command) :
    runCommands (⟨w, d⟩ :: cs) s = runCommands cs t := by
  simp [runCommands, step_issueFirst h, ht, hok]

theorem runCommands_of_failed {w : W32} {i : Instr} {d : Din} {s t : State} (h : decode w = .ok i)
    (ht : exec i (s.setPort d s.port) = .next t) (hok : t.lastOk = false) (cs : List Command) :
    runCommands (⟨w, d⟩ :: cs) s = .next t := by
  simp [runCommands, step_issueFirst h, ht, hok]

@[simp] theorem lastOk_setResult_ok (s : State) (v : W32) (d : List Byte) : (s.setResult ⟨.ok, v, d⟩).lastOk = true := rfl

theorem lastOk_failed {c : Status} (h : c ≠ .ok) (s : State) : (failed c s).lastOk = false := by
  simp [State.lastOk, h]

/-! ### The three commands (R254, R257, R262) -/

theorem exec_eInit_code (a : Alg) (s : State) :
    exec (.eInit a.code) s = .next ((constructEngine a s).setResult ⟨.ok, 0, []⟩) := by
  simp [exec, execEInit]

/-- R257: on an engine, E_UPDATE's checks are those of the slice and of the length. -/
theorem firstFailure_engine {s : State} (h : s.slot = .engine) (cs : List Check) :
    firstFailure (engineChecks ++ cs) s = firstFailure cs s := by
  rw [firstFailure_append, (engineChecks_pass s).2 h, Option.none_or]

theorem exec_eUpdate_fail {s : State} {c : Status} (hslot : s.slot = .engine)
    (h : firstFailure (sliceChecks ++ [checkLength]) s = some c) : exec .eUpdate s = .next (failed c s) := by
  rw [exec, execEUpdate]
  exact runChecked_fail (by rw [List.append_assoc, firstFailure_engine hslot, h])

theorem exec_eUpdate_pass {s : State} (hslot : s.slot = .engine)
    (h : firstFailure (sliceChecks ++ [checkLength]) s = none) :
    exec .eUpdate s = .next ((s.setEngine (engineUpdate s.engine s.din.slice)).setResult ⟨.ok, 0, []⟩) := by
  rw [exec, execEUpdate]
  exact runChecked_pass (by rw [List.append_assoc, firstFailure_engine hslot, h])

theorem exec_eFinalize_pass {s : State} (hslot : s.slot = .engine) :
    exec .eFinalize s = .next ((s.setEngine (engineFinalize s.engine)).setResult ⟨.ok, 0, engineDigest s.engine⟩) := by
  rw [exec, execEFinalize]
  exact runChecked_pass ((engineChecks_pass s).2 hslot)

/-! ### E_UPDATE and E_FINALIZE in turn, which E.HASH ends with (R163) -/

section
variable {s : State} {d : Din} (hslot : s.slot = .engine)
include hslot

theorem runCommands_eUpdate_stops {c : Status} (hc : c ≠ .ok)
    (h : firstFailure (sliceChecks ++ [checkLength]) (s.setPort d s.port) = some c) (cs : List Command) :
    runCommands (⟨0x03000000, d⟩ :: cs) s = .next (failed c (s.setPort d s.port)) :=
  runCommands_of_failed (i := .eUpdate) rfl (exec_eUpdate_fail (s := s.setPort d s.port) hslot h) (lastOk_failed hc _) cs

theorem runCommands_eUpdate_eFinalize
    (h : firstFailure (sliceChecks ++ [checkLength]) (s.setPort d s.port) = none) :
    ∃ t, runCommands [⟨0x03000000, d⟩, ⟨0x04000000, .absent⟩] s = .next t ∧
      t.result = some ⟨.ok, 0, engineDigest (engineUpdate s.engine d.slice)⟩ := by
  have hupdate := exec_eUpdate_pass (s := s.setPort d s.port) hslot h
  rw [runCommands_of_ok (i := .eUpdate) rfl hupdate (lastOk_setResult_ok _ _ _),
    runCommands_of_ok (i := .eFinalize) rfl (exec_eFinalize_pass (by simpa using hslot)) (lastOk_setResult_ok _ _ _)]
  exact ⟨_, rfl, rfl⟩

end

/-! ### E.HASH -/

/-- R163, R254: the block as the E_INIT of an E.HASH line leaves it. -/
def eHashInit (a : Alg) (s : State) : State :=
  (constructEngine a (s.setPort .absent s.port)).setResult ⟨.ok, 0, []⟩

section
variable (a : Alg) (s : State)

@[simp] theorem eHashInit_slot : (eHashInit a s).slot = .engine := rfl
@[simp] theorem eHashInit_chain : (eHashInit a s).engine.chain = initialChain a := rfl
@[simp] theorem eHashInit_pbuf : (eHashInit a s).engine.pbuf = [] := rfl
@[simp] theorem eHashInit_count : (eHashInit a s).engine.count = 0 := rfl
@[simp] theorem eHashInit_alg : (eHashInit a s).engine.alg = a := initialChain_alg a

theorem engineDigest_eHashInit (m : List Byte) : engineDigest (engineUpdate (eHashInit a s).engine m) = digest a m :=
  engineDigest_engineUpdate_engineConstruct a _ m

theorem maxBufferLength_le_countMax : maxBufferLength ≤ a.countMax := by cases a <;> decide

/-- R657: an engine that has absorbed nothing can count any slice. -/
theorem checkLength_eHashInit (d : Din) (r : List Command) : checkLength ((eHashInit a s).setPort d r) = none := by
  have hlen := din_length_le d
  have hmax := maxBufferLength_le_countMax a
  simp only [checkLength_pass, setPort_engine, setPort_din, eHashInit_count, eHashInit_alg]
  omega

/-- R163: E.HASH's E_INIT succeeds, and the other two commands follow it. -/
theorem runLine_eHash (buf : AsmBuf) (off len : Int) : runLine (.eHash a buf off len) s =
    runCommands [⟨0x03000000, asmDin buf off len⟩, ⟨0x04000000, .absent⟩] (eHashInit a s) := by
  have hdec : decode (asmWord 0x01000000 a.code 0) = .ok (.eInit a.code) := by
    rw [asmWord_eInit]; exact decode_encode (by simp [Instr.wellFormed])
  exact runCommands_of_ok hdec (exec_eInit_code a _) (lastOk_setResult_ok _ _ _) _

/-- R163: where E_UPDATE fails its slice checks, E.HASH stops with the engine constructed and empty. -/
theorem eHash_stops {buf : AsmBuf} {off len : Int} {c : Status} (hc : c ≠ .ok)
    (h : firstFailure (sliceChecks ++ [checkLength])
      ((eHashInit a s).setPort (asmDin buf off len) (eHashInit a s).port) = some c) :
    ∃ t, runLine (.eHash a buf off len) s = .next t ∧ t.result = some ⟨c, 0, []⟩ ∧
      t.slot = .engine ∧ t.engine.chain = initialChain a ∧ t.engine.pbuf = [] ∧ t.engine.count = 0 := by
  rw [runLine_eHash, runCommands_eUpdate_stops (eHashInit_slot a s) hc h]
  exact ⟨_, rfl, rfl, rfl, rfl, rfl, rfl⟩

/-- R163, R264: where E_UPDATE passes its slice checks, E.HASH returns the digest of the slice. -/
theorem eHash_returns {buf : AsmBuf} {off len : Int} (h : (asmDin buf off len).HasSlice) :
    ∃ t, runLine (.eHash a buf off len) s = .next t ∧
      t.result = some ⟨.ok, 0, digest a (asmDin buf off len).slice⟩ := by
  rw [runLine_eHash, ← engineDigest_eHashInit a s]
  refine runCommands_eUpdate_eFinalize (eHashInit_slot a s) ?_
  rw [firstFailure_append_none, firstFailure_single, sliceChecks_none_iff]
  exact ⟨h, checkLength_eHashInit a s _ _⟩

end

/-! The operand of a line whose numbers OFF and LEN can hold (R153, R162). -/

theorem toInt_ofInt_of_bounds {n : Int} (h0 : -2 ^ 31 ≤ n) (h1 : n < 2 ^ 31) : (BitVec.ofInt 32 n).toInt = n :=
  BitVec.toInt_ofInt_eq_self (by decide) h0 h1

/-- Settles O58: on the engine that E_INIT constructs, E_UPDATE's length check passes, so its slice checks alone decide
whether the line stops there or goes on to E_FINALIZE. -/
theorem eHashReturnsTheDigestOrStops : Obligations.EHashReturnsTheDigestOrStops := by
  intro s a buf off len hoff0 hoff1 hlen0 hlen1
  have hoff : (asmDin buf off len).off.toInt = off := toInt_ofInt_of_bounds hoff0 hoff1
  have hlen : (asmDin buf off len).len.toInt = len := toInt_ofInt_of_bounds hlen0 hlen1
  refine ⟨fun b hb h0 h1 hend => ?_, fun hb => ?_, fun b hb hneg => ?_, fun b hb h0 h1 hend => ?_⟩
  · have hslice : (asmDin buf off len).slice = (b.drop off.toNat).take len.toNat := by
      have hmem := slice_of_buf (s := s.setPort (asmDin buf off len) []) hb
      rwa [setPort_din, hoff, hlen] at hmem
    rw [← hslice]
    refine eHash_returns a s ⟨b, hb, ?_⟩
    simpa [Din.offset, Din.length, sext32, hoff, hlen] using ⟨h0, h1, hend⟩
  · exact eHash_stops a s (by decide) (sliceChecks_null hb _)
  · exact eHash_stops a s (by decide) (sliceChecks_negative hb (by simpa [hoff, hlen] using hneg) _)
  · exact eHash_stops a s (by decide)
      (sliceChecks_range hb (hoff.symm ▸ h0) (hlen.symm ▸ h1) (by simpa [hoff, hlen] using hend) _)

end Sys2Proof.Machine
end

section
/-! The endian units (spec/40_endian.md R201 to R208) by two functions that name neither a width nor an order: the word of a
list of bytes and the bytes of a word, the lowest byte first. A big-endian unit takes or gives the same bytes reversed. -/

namespace Sys2Proof.Machine

/-- A word moved up by a byte, with `b` below it. -/
def pushByte {N : Nat} (w : BitVec N) (b : Byte) : BitVec N := w <<< 8 ||| b.zeroExtend N

/-- The word whose bytes, the lowest first, are `s`. -/
def wordOfBytes (N : Nat) (s : List Byte) : BitVec N := s.foldr (fun b w => pushByte w b) 0

/-- The `n` lowest bytes of a word, the lowest first. -/
def bytesOfWord {N : Nat} (n : Nat) (w : BitVec N) : List Byte := (List.range n).map fun k => byteOf w (8 * k)

/-! ### The bits of the bytes and of the word -/

@[simp] theorem bytesOfWord_length {N : Nat} (n : Nat) (w : BitVec N) : (bytesOfWord n w).length = n := by
  simp [bytesOfWord]

theorem getElem_bytesOfWord {N n k : Nat} (w : BitVec N) (h : k < (bytesOfWord n w).length) :
    (bytesOfWord n w)[k] = byteOf w (8 * k) := by simp [bytesOfWord]

theorem getLsbD_byteOf {N j : Nat} (w : BitVec N) (lo : Nat) (hj : j < 8) :
    (byteOf w lo).getLsbD j = w.getLsbD (lo + j) := by simp [byteOf, hj]

theorem pushByte_eq_or {N : Nat} (w : BitVec N) (b : Byte) : pushByte w b = b.zeroExtend N ||| w <<< 8 :=
  BitVec.or_comm ..

/-- The two share no bit, so R203's sum puts bytes together as R201's `|||` does. -/
theorem pushByte_eq_add {N : Nat} (w : BitVec N) (b : Byte) : pushByte w b = w <<< 8 + b.zeroExtend N := by
  refine (BitVec.add_eq_or_of_and_eq_zero _ _ (BitVec.eq_of_getLsbD_eq fun k _ => ?_)).symm
  by_cases h : k < 8
  · simp [h]
  · simp [BitVec.getLsbD_of_ge b k (by omega)]

theorem pushByte_eq_add_comm {N : Nat} (w : BitVec N) (b : Byte) : pushByte w b = b.zeroExtend N + w <<< 8 :=
  (pushByte_eq_add w b).trans (BitVec.add_comm ..)

theorem getLsbD_wordOfBytes {N k : Nat} (s : List Byte) (hk : k < N) :
    (wordOfBytes N s).getLsbD k = (s.getD (k / 8) 0).getLsbD (k % 8) := by
  induction s generalizing k with
  | nil => simp [wordOfBytes]
  | cons b s ih =>
    change (pushByte (wordOfBytes N s) b).getLsbD k = _
    by_cases h : k < 8
    · simp [pushByte, hk, h, Nat.div_eq_of_lt h, Nat.mod_eq_of_lt h]
    · obtain ⟨j, rfl⟩ : ∃ j, k = j + 8 := ⟨k - 8, by omega⟩
      have hj : j < N := by omega
      simpa [pushByte, hk, hj] using ih hj

/-! ### The two functions are inverse (R211) -/

theorem wordOfBytes_bytesOfWord (n : Nat) (w : BitVec (8 * n)) : wordOfBytes (8 * n) (bytesOfWord n w) = w := by
  refine BitVec.eq_of_getLsbD_eq fun k hk => ?_
  have hbyte : k / 8 < (bytesOfWord n w).length := by rw [bytesOfWord_length]; omega
  rw [getLsbD_wordOfBytes _ hk, List.getD_eq_getElem _ _ hbyte, getElem_bytesOfWord,
    getLsbD_byteOf _ _ (Nat.mod_lt k (by decide)), Nat.div_add_mod]

theorem bytesOfWord_wordOfBytes {n : Nat} {s : List Byte} (hs : s.length = n) :
    bytesOfWord n (wordOfBytes (8 * n) s) = s := by
  refine List.ext_getElem (by simp [hs]) fun k _ hk => BitVec.eq_of_getLsbD_eq fun j hj => ?_
  have hdiv : (8 * k + j) / 8 = k := by omega
  have hmod : (8 * k + j) % 8 = j := by omega
  rw [getElem_bytesOfWord, getLsbD_byteOf _ _ hj, getLsbD_wordOfBytes _ (by omega), hdiv, hmod,
    List.getD_eq_getElem _ _ hk]

/-! ### Each unit by the two functions -/

/-- The bytes `s[i..i+n)` one by one, as the unpack units read them. -/
theorem take_drop_eq_map_getD {s : List Byte} {i n : Nat} (h : i + n ≤ s.length) :
    (s.drop i).take n = (List.range n).map fun k => s.getD (i + k) 0 := by
  refine List.ext_getElem (by simp; omega) fun k _ hk => ?_
  have hk' : i + k < s.length := by simp at hk; omega
  simp [hk']

/-- R201. -/
theorem unpack32le_eq {s : List Byte} {i : Nat} (h : i + 4 ≤ s.length) :
    unpack32le s i = wordOfBytes 32 ((s.drop i).take 4) := by
  rw [take_drop_eq_map_getD h]
  change _ = List.foldr _ 0 [_, _, _, _]
  simp [unpack32le, byteAt, pushByte_eq_or, BitVec.shiftLeft_or_distrib, ← BitVec.shiftLeft_add, BitVec.or_assoc]

theorem wordOfBytes_reverse (N : Nat) (s : List Byte) : wordOfBytes N s.reverse = s.foldl pushByte 0 :=
  List.foldr_reverse

/-- R202. -/
theorem unpack32be_eq {s : List Byte} {i : Nat} (h : i + 4 ≤ s.length) :
    unpack32be s i = wordOfBytes 32 ((s.drop i).take 4).reverse := by
  rw [take_drop_eq_map_getD h, wordOfBytes_reverse]
  change _ = List.foldl _ 0 [_, _, _, _]
  simp [unpack32be, byteAt, pushByte, BitVec.shiftLeft_or_distrib, ← BitVec.shiftLeft_add]

/-- R203. -/
theorem unpack64le_eq {s : List Byte} {i : Nat} (h : i + 8 ≤ s.length) :
    unpack64le s i = wordOfBytes 64 ((s.drop i).take 8) := by
  rw [take_drop_eq_map_getD h]
  change _ = List.foldr _ 0 [_, _, _, _, _, _, _, _]
  simp [unpack64le, byteAt, pushByte_eq_add_comm, BitVec.shiftLeft_add_distrib, ← BitVec.shiftLeft_add, BitVec.add_assoc]

/-- R204. -/
theorem unpack64be_eq {s : List Byte} {i : Nat} (h : i + 8 ≤ s.length) :
    unpack64be s i = wordOfBytes 64 ((s.drop i).take 8).reverse := by
  rw [take_drop_eq_map_getD h, wordOfBytes_reverse]
  change _ = List.foldl _ 0 [_, _, _, _, _, _, _, _]
  simp [unpack64be, byteAt, pushByte_eq_add, BitVec.shiftLeft_add_distrib, ← BitVec.shiftLeft_add]

/-- R205. -/
theorem pack32le_eq (w : W32) : pack32le w = bytesOfWord 4 w := rfl

/-- R206. -/
theorem pack32be_eq (w : W32) : pack32be w = (bytesOfWord 4 w).reverse := rfl

/-- R207. -/
theorem pack64le_eq (w : W64) : pack64le w = bytesOfWord 8 w := rfl

/-- R208. -/
theorem pack64be_eq (w : W64) : pack64be w = (bytesOfWord 8 w).reverse := rfl

/-! ### The round-trip laws (R211) -/

theorem unpack32le_pack32le (w : W32) : unpack32le (pack32le w) 0 = w :=
  (unpack32le_eq (Nat.le_refl 4)).trans (wordOfBytes_bytesOfWord 4 w)

theorem unpack32be_pack32be (w : W32) : unpack32be (pack32be w) 0 = w :=
  (unpack32be_eq (Nat.le_refl 4)).trans (wordOfBytes_bytesOfWord 4 w)

theorem unpack64le_pack64le (w : W64) : unpack64le (pack64le w) 0 = w :=
  (unpack64le_eq (Nat.le_refl 8)).trans (wordOfBytes_bytesOfWord 8 w)

theorem unpack64be_pack64be (w : W64) : unpack64be (pack64be w) 0 = w :=
  (unpack64be_eq (Nat.le_refl 8)).trans (wordOfBytes_bytesOfWord 8 w)

theorem length_take_drop {s : List Byte} {i n : Nat} (h : i + n ≤ s.length) : ((s.drop i).take n).length = n :=
  List.length_take_of_le (by rw [List.length_drop]; omega)

theorem pack32le_unpack32le {s : List Byte} {i : Nat} (h : i + 4 ≤ s.length) :
    pack32le (unpack32le s i) = (s.drop i).take 4 := by
  rw [unpack32le_eq h, pack32le_eq]
  exact bytesOfWord_wordOfBytes (length_take_drop h)

theorem pack32be_unpack32be {s : List Byte} {i : Nat} (h : i + 4 ≤ s.length) :
    pack32be (unpack32be s i) = (s.drop i).take 4 := by
  rw [unpack32be_eq h, pack32be_eq, List.reverse_eq_iff]
  exact bytesOfWord_wordOfBytes (List.length_reverse.trans (length_take_drop h))

theorem pack64le_unpack64le {s : List Byte} {i : Nat} (h : i + 8 ≤ s.length) :
    pack64le (unpack64le s i) = (s.drop i).take 8 := by
  rw [unpack64le_eq h, pack64le_eq]
  exact bytesOfWord_wordOfBytes (length_take_drop h)

theorem pack64be_unpack64be {s : List Byte} {i : Nat} (h : i + 8 ≤ s.length) :
    pack64be (unpack64be s i) = (s.drop i).take 8 := by
  rw [unpack64be_eq h, pack64be_eq, List.reverse_eq_iff]
  exact bytesOfWord_wordOfBytes (List.length_reverse.trans (length_take_drop h))

/-- Settles O47: every unit is `wordOfBytes` or `bytesOfWord` on bytes in its order, and these two are inverse. -/
theorem endianUnitsRoundTrip : Obligations.EndianUnitsRoundTrip :=
  ⟨fun w => ⟨unpack32le_pack32le w, unpack32be_pack32be w, pack32be_eq w⟩,
    fun w => ⟨unpack64le_pack64le w, unpack64be_pack64be w, pack64be_eq w⟩,
    fun _ _ h => ⟨pack32le_unpack32le h, pack32be_unpack32be h⟩,
    fun _ _ h => ⟨pack64le_unpack64le h, pack64be_unpack64be h⟩⟩

end Sys2Proof.Machine
end

section
/-! The engine commands (spec/41_engine.md R254, R255, R257, R262, R263): the instance checks that every engine and HMAC
command begins with, and the whole next state of each engine command. -/

namespace Sys2Proof.Machine

/-! ### The instance checks come first (R651, R654) -/

/-- R254 to R263: the engine commands that need an instance. -/
def needsEngine : Instr → Bool
  | .eReset | .eUpdate | .eFinalize | .eRelease => true
  | .eInit _ | .hInit _ _ | .hSetkey | .hUpdate | .hFinalize | .hRelease | .hGetkey | .rdreg _ => false

/-- R554 to R558: the HMAC commands that need an instance. -/
def needsHmac : Instr → Bool
  | .hSetkey | .hUpdate | .hFinalize | .hRelease | .hGetkey => true
  | .eInit _ | .eReset | .eUpdate | .eFinalize | .eRelease | .hInit _ _ | .rdreg _ => false

/-- R651: such a command runs `engineChecks` before any other check. -/
theorem exec_of_needsEngine {i : Instr} (hi : needsEngine i = true) :
    ∃ cs f, exec i = runChecked (engineChecks ++ cs) f := by
  cases i with
  | eReset | eFinalize | eRelease => exact ⟨[], _, rfl⟩
  | eUpdate => exact ⟨sliceChecks ++ [checkLength], _, rfl⟩
  | eInit _ | hInit _ _ | hSetkey | hUpdate | hFinalize | hRelease | hGetkey | rdreg _ => cases hi

/-- R651: such a command runs `hmacChecks` before any other check. -/
theorem exec_of_needsHmac {i : Instr} (hi : needsHmac i = true) : ∃ cs f, exec i = runChecked (hmacChecks ++ cs) f := by
  cases i with
  | hFinalize | hRelease | hGetkey => exact ⟨[], _, rfl⟩
  | hUpdate => exact ⟨sliceChecks ++ [checkLength], _, rfl⟩
  | hSetkey => exact ⟨sliceChecks ++ [checkKeySize], _, rfl⟩
  | eInit _ | eReset | eUpdate | eFinalize | eRelease | hInit _ _ | rdreg _ => cases hi

theorem exec_needsEngine_empty {i : Instr} {s : State} (hi : needsEngine i = true) (h : s.slot = .empty) :
    exec i s = .next (failed .released s) := by
  obtain ⟨cs, f, hrun⟩ := exec_of_needsEngine hi
  rw [hrun, runChecked_fail (engineChecks_empty h cs)]

theorem exec_needsEngine_hmac {i : Instr} {s : State} (hi : needsEngine i = true) (h : s.slot = .hmac) :
    exec i s = .next (failed .kind s) := by
  obtain ⟨cs, f, hrun⟩ := exec_of_needsEngine hi
  rw [hrun, runChecked_fail (engineChecks_hmac h cs)]

theorem exec_needsHmac_empty {i : Instr} {s : State} (hi : needsHmac i = true) (h : s.slot = .empty) :
    exec i s = .next (failed .released s) := by
  obtain ⟨cs, f, hrun⟩ := exec_of_needsHmac hi
  rw [hrun, runChecked_fail (hmacChecks_empty h cs)]

/-! ### E_INIT (R254) -/

theorem discardInstance_engine_scratch (s : State) : (discardInstance s).engine.scratch = s.engine.scratch := by
  unfold discardInstance
  split
  · rw [zeroize_engine]; rfl
  · rfl

/-- R254, R263: what an INIT leaves of the key material, which only an HMAC instance has to clear. -/
theorem discardInstance_eq (s : State) : discardInstance s = { s with
    engine := (discardInstance s).engine,
    ipad := if s.slot = .hmac then padZero else s.ipad,
    opad := if s.slot = .hmac then padZero else s.opad,
    key := if s.slot = .hmac then [] else s.key,
    outBits := if s.slot = .hmac then 0 else s.outBits } := by
  by_cases h : s.slot = .hmac
  · simp [discardInstance, h, zeroize_of_hmac]
  · rcases discardInstance_cases s with ⟨-, hd⟩ | ⟨-, hd⟩
    · simp [hd, h]
    · simp [hd, h, zeroize_of_not_hmac]

theorem constructEngine_engine (a : Alg) (s : State) :
    (constructEngine a s).engine = ⟨initialChain a, [], 0, s.engine.scratch⟩ :=
  congrArg (Engine.mk _ _ _) (discardInstance_engine_scratch s)

theorem constructEngine_eq (a : Alg) (s : State) : constructEngine a s = { s with
    slot := .engine,
    engine := ⟨initialChain a, [], 0, s.engine.scratch⟩,
    ipad := if s.slot = .hmac then padZero else s.ipad,
    opad := if s.slot = .hmac then padZero else s.opad,
    key := if s.slot = .hmac then [] else s.key,
    outBits := if s.slot = .hmac then 0 else s.outBits } := by
  rw [← constructEngine_engine a s, constructEngine, discardInstance_eq]
  rfl

theorem exec_eInit_reserved {c : BitVec 4} (h : 7 ≤ c.toNat) (s : State) :
    exec (.eInit c) s = .next (failed .illegal s) := by
  simp [exec, execEInit, (ofCode?_eq_none_iff c).2 h]

theorem exec_eReset_pass {s : State} (hslot : s.slot = .engine) :
    exec .eReset s = .next ((s.setEngine (engineReset s.engine)).setResult ⟨.ok, 0, []⟩) := by
  rw [exec, execEReset]
  exact runChecked_pass ((engineChecks_pass s).2 hslot)

/-- R254, R255: over an engine, constructing one of the same algorithm is resetting it. -/
theorem constructEngine_eq_reset {s : State} (hslot : s.slot = .engine) :
    constructEngine s.engine.alg s = s.setEngine (engineReset s.engine) := by
  have hne : s.slot ≠ .hmac := by simp [hslot]
  rw [constructEngine_eq, if_neg hne, if_neg hne, if_neg hne, if_neg hne, ← hslot]
  rfl

/-- Settles O11: E_INIT has no check, and what the discarded instance leaves depends on SLOT alone. -/
theorem eInitConstructsAResetEngine : Obligations.EInitConstructsAResetEngine := by
  refine ⟨fun a s => ?_, fun a s hslot halg => ?_, fun c s hc => exec_eInit_reserved hc s, by decide⟩
  · rw [exec_eInit_code, constructEngine_eq]; rfl
  · rw [← halg, exec_eInit_code, constructEngine_eq_reset hslot, exec_eReset_pass hslot]

/-- Settles O12: past the instance checks E_RESET writes the engine alone. -/
theorem eResetRestoresTheFreshEngine : Obligations.EResetRestoresTheFreshEngine :=
  ⟨rfl, fun _ => exec_eReset_pass, fun _ => exec_needsEngine_empty rfl, fun _ => exec_needsEngine_hmac rfl⟩

/-! ### E_UPDATE (R257) -/

@[simp] theorem engineUpdate_nil {e : Engine} (hp : e.plen < e.bs) : engineUpdate e [] = e :=
  engineUpdate_eq_foldl_engineFeed hp []

/-- R651, R655, R657: a legal slice leaves E_UPDATE the length check alone. -/
theorem updateChecks_of_slice {s : State} {b : List Byte} (hbuf : s.din.buf = some b) (hoff : 0 ≤ s.din.off.toInt)
    (hlen : 0 ≤ s.din.len.toInt) (hend : s.din.off.toInt + s.din.len.toInt ≤ b.length) :
    firstFailure (sliceChecks ++ [checkLength]) s = checkLength s := by
  rw [sliceChecks_append hbuf hoff hlen hend, firstFailure_single]

theorem checkLength_fail {s : State} (h : (s.engine.count : Int) + s.din.len.toInt > s.engine.alg.countMax) :
    checkLength s = some .length := if_pos h

theorem exec_eUpdate_slice {s : State} {b : List Byte} (hslot : s.slot = .engine) (hbuf : s.din.buf = some b)
    (hoff : 0 ≤ s.din.off.toInt) (hlen : 0 ≤ s.din.len.toInt) (hend : s.din.off.toInt + s.din.len.toInt ≤ b.length)
    (hmax : (s.engine.count : Int) + s.din.len.toInt ≤ s.engine.alg.countMax) :
    exec .eUpdate s = .next ((s.setEngine (engineUpdate s.engine
      ((b.drop s.din.off.toInt.toNat).take s.din.len.toInt.toNat))).setResult ⟨.ok, 0, []⟩) := by
  have hchecks := (updateChecks_of_slice hbuf hoff hlen hend).trans ((checkLength_pass s).2 hmax)
  rw [exec_eUpdate_pass hslot hchecks, slice_of_buf hbuf]

/-- R257: an update of no byte writes nothing but its result. -/
theorem exec_eUpdate_noBytes {s : State} {b : List Byte} (hslot : s.slot = .engine) (hinv : EngineInv s.engine)
    (hbuf : s.din.buf = some b) (hoff : 0 ≤ s.din.off.toInt) (hlen : s.din.len = 0#32)
    (hend : s.din.off.toInt ≤ b.length) : exec .eUpdate s = .next (s.setResult ⟨.ok, 0, []⟩) := by
  obtain ⟨hplen, hcount, -⟩ := hinv
  have hzero : s.din.len.toInt = 0 := by rw [hlen]; rfl
  rw [exec_eUpdate_slice hslot hbuf hoff (by omega) (by omega) (by omega), hzero, Int.toNat_zero, List.take_zero,
    engineUpdate_nil hplen, setEngine_self]

/-- Settles O13: each clause is the first check that fails, or that none does. -/
theorem eUpdateAbsorbsTheSlice : Obligations.EUpdateAbsorbsTheSlice :=
  ⟨rfl, fun _ _ => exec_eUpdate_slice, fun _ _ => exec_eUpdate_noBytes,
    fun _ => exec_needsEngine_empty rfl, fun _ => exec_needsEngine_hmac rfl,
    fun _ hslot hbuf => exec_eUpdate_fail hslot (sliceChecks_null hbuf _),
    fun _ _ hslot hbuf hneg => exec_eUpdate_fail hslot (sliceChecks_negative hbuf hneg _),
    fun _ _ hslot hbuf hoff hlen hend => exec_eUpdate_fail hslot (sliceChecks_range hbuf hoff hlen hend _),
    fun _ _ hslot hbuf hoff hlen hend hmax =>
      exec_eUpdate_fail hslot ((updateChecks_of_slice hbuf hoff hlen hend).trans (checkLength_fail hmax))⟩

/-! ### E_FINALIZE (R262) -/

/-- Settles O14: past the instance checks E_FINALIZE returns the digest and leaves a freshly constructed engine. -/
theorem eFinalizeReturnsTheDigestAndResets : Obligations.EFinalizeReturnsTheDigestAndResets := by
  refine ⟨rfl, fun s hslot => ?_, fun _ => exec_needsEngine_empty rfl, fun _ => exec_needsEngine_hmac rfl⟩
  rw [exec_eFinalize_pass hslot, engineFinalize_eq_engineConstruct]
  rfl

/-! ### E_RELEASE (R263) -/

theorem exec_eRelease_pass {s : State} (hslot : s.slot = .engine) :
    exec .eRelease s = .next ((releaseInstance s).setResult ⟨.ok, 0, []⟩) := by
  rw [exec, execERelease]
  exact runChecked_pass ((engineChecks_pass s).2 hslot)

/-- R263: releasing an engine zeroes it and empties the slot, and leaves the key material. -/
theorem releaseInstance_of_engine {s : State} (hslot : s.slot = .engine) :
    releaseInstance s = { s with slot := .empty, engine := engineZeroize s.engine } := by
  rw [releaseInstance, zeroize_of_not_hmac (by simp [hslot])]
  rfl

/-- R654: an engine or HMAC command that needs an instance, on an empty slot. -/
theorem exec_needsInstance_empty {i : Instr} {s : State} (hi : needsEngine i = true ∨ needsHmac i = true)
    (h : s.slot = .empty) : exec i s = .next (failed .released s) :=
  hi.elim (exec_needsEngine_empty · h) (exec_needsHmac_empty · h)

/-- Settles O15: E_RELEASE empties the slot, where every command that needs an instance fails its first check. -/
theorem eReleaseZeroesTheEngine : Obligations.EReleaseZeroesTheEngine := by
  refine ⟨rfl, fun s hslot => ?_, fun _ => exec_needsEngine_empty rfl, fun _ => exec_needsEngine_hmac rfl,
    fun s t u i hslot hrelease hi hexec => ?_⟩
  · rw [exec_eRelease_pass hslot, releaseInstance_of_engine hslot]; rfl
  · have hempty : t.slot = .empty := by
      rw [exec_eRelease_pass hslot] at hrelease
      rw [← Host.Outcome.next.inj hrelease]; rfl
    have hneeds : ∀ i ∈ [Instr.eReset, .eUpdate, .eFinalize, .eRelease, .hSetkey, .hUpdate, .hFinalize, .hRelease,
      .hGetkey], needsEngine i = true ∨ needsHmac i = true := by decide
    rw [exec_needsInstance_empty (hneeds i hi) hempty] at hexec
    exact (Host.Outcome.next.inj hexec).symm

end Sys2Proof.Machine
end

section
/-! Who writes the key material (spec/10_state.md R61, R62, R63): KEY, the pads and OUTBITS, effect by effect. -/

namespace Sys2Proof.Machine

/-- R61, R62, R63: the key material of the two states is the same. -/
def SameKeyMaterial (s t : State) : Prop :=
  t.key = s.key ∧ t.ipad = s.ipad ∧ t.opad = s.opad ∧ t.outBits = s.outBits

/-- R263, R701: the state holds no key material. -/
def KeyMaterialCleared (t : State) : Prop := t.key = [] ∧ t.ipad = padZero ∧ t.opad = padZero ∧ t.outBits = 0

theorem zeroize_keyMaterial (s : State) : SameKeyMaterial s (zeroize s) ∨ KeyMaterialCleared (zeroize s) := by
  by_cases h : s.slot = .hmac
  · rw [zeroize_of_hmac h]; exact .inr ⟨rfl, rfl, rfl, rfl⟩
  · rw [zeroize_of_not_hmac h]; exact .inl ⟨rfl, rfl, rfl, rfl⟩

/-- R254: E_INIT clears what it discards, and over an empty slot leaves what is there. -/
theorem constructEngine_keyMaterial (a : Alg) (s : State) :
    SameKeyMaterial s (constructEngine a s) ∨ KeyMaterialCleared (constructEngine a s) := by
  change SameKeyMaterial s (discardInstance s) ∨ KeyMaterialCleared (discardInstance s)
  rcases discardInstance_cases s with ⟨-, hd⟩ | ⟨-, hd⟩
  · rw [hd]; exact .inl ⟨rfl, rfl, rfl, rfl⟩
  · rw [hd]; exact zeroize_keyMaterial s

/-- R61, R62, R63: an effect leaves the key material, but for H_INIT, for H_SETKEY, which leaves OUTBITS, and for what E_INIT
and H_RELEASE discard. -/
theorem effect_keyMaterial {i : Instr} {s t : State} (h : Effect i s t) :
    SameKeyMaterial s t ∨ (∃ a n, i = .hInit a n) ∨ (i = .hSetkey ∧ t.outBits = s.outBits) ∨
      (KeyMaterialCleared t ∧ ((∃ a, i = .eInit a) ∨ i = .hRelease)) := by
  cases i with
  | eInit c =>
    obtain ⟨a, -, rfl⟩ := h
    exact (constructEngine_keyMaterial a s).imp_right fun hc => .inr (.inr ⟨hc, .inl ⟨c, rfl⟩⟩)
  | eRelease =>
    obtain ⟨hslot, rfl⟩ := h
    rw [releaseInstance_of_engine hslot]; exact .inl ⟨rfl, rfl, rfl, rfl⟩
  | hInit c n => exact .inr (.inl ⟨c, n, rfl⟩)
  | hSetkey => obtain ⟨-, -, -, rfl⟩ := h; exact .inr (.inr (.inl ⟨rfl, rfl⟩))
  | hRelease =>
    obtain ⟨-, rfl⟩ := h
    exact (zeroize_keyMaterial s).imp_right fun hc => .inr (.inr ⟨hc, .inr rfl⟩)
  | eUpdate | hUpdate => obtain ⟨-, -, -, rfl⟩ := h; exact .inl ⟨rfl, rfl, rfl, rfl⟩
  | rdreg n => obtain ⟨r, -, -, rfl⟩ := h; exact .inl ⟨rfl, rfl, rfl, rfl⟩
  | eReset | eFinalize | hFinalize | hGetkey => obtain ⟨-, rfl⟩ := h; exact .inl ⟨rfl, rfl, rfl, rfl⟩

/-- A failing command leaves the key material. -/
theorem failed_keyMaterial (c : Status) (s : State) : SameKeyMaterial s (failed c s) := ⟨rfl, rfl, rfl, rfl⟩

/-- Settles O30: a failing command leaves the key material, and an effect writes it as R61 to R63 say. -/
theorem keyMaterialIsWrittenByKeyCommandsAlone : Obligations.KeyMaterialIsWrittenByKeyCommandsAlone := by
  intro i s t h
  have hwritten := (exec_cases h).elim (fun ⟨c, _, ht⟩ => .inl (ht ▸ failed_keyMaterial c s)) effect_keyMaterial
  rcases hwritten with ⟨hkey, hipad, hopad, hout⟩ | hinit | ⟨hset, hout⟩ | ⟨⟨hkey, hipad, hopad, hout⟩, hi⟩
  · exact ⟨.inl ⟨hkey, hipad, hopad⟩, .inl hout⟩
  · exact ⟨.inr (.inl hinit), .inr (.inl hinit)⟩
  · exact ⟨.inr (.inr (.inl hset)), .inl hout⟩
  · exact ⟨.inr (.inr (.inr ⟨hkey, hipad, hopad, hi⟩)), .inr (.inr ⟨hout, hi⟩)⟩

end Sys2Proof.Machine
end

section
/-! Updates in parts (spec/41_engine.md R256, R264, R269): the engine after a list of updates is the engine after one update
with all the bytes, and what a constructed engine holds of them. -/

namespace Sys2Proof.Machine

/-- Settles O38, by the bytewise form of an update. -/
theorem updateIsFeedingBytewise : Obligations.UpdateIsFeedingBytewise :=
  fun _ d hp => engineUpdate_eq_foldl_engineFeed hp d

/-- Settles O40: the counter, the pending buffer and the algorithm after an update. -/
theorem updateCountsAndBuffers : Obligations.UpdateCountsAndBuffers :=
  fun e d hp => ⟨engineUpdate_count e d, engineUpdate_plen hp d, engineUpdate_alg e d⟩

/-- R264: chunk invariance of the engine. -/
theorem foldl_engineUpdate {e : Engine} (hp : e.plen < e.bs) (parts : List (List Byte)) :
    parts.foldl engineUpdate e = engineUpdate e parts.flatten := by
  induction parts generalizing e with
  | nil => exact (engineUpdate_nil hp).symm
  | cons p parts ih =>
    rw [List.foldl_cons, ih (engineUpdate_plen_lt hp p), engineUpdate_engineUpdate hp, List.flatten_cons]

/-- R256 (b), (c): with nothing pending, an update compresses the whole blocks of its bytes and buffers the rest. -/
theorem engineUpdate_of_empty {e : Engine} (hp : e.pbuf = []) (d : List Byte) :
    engineUpdate e d = absorbDirect (countInput e d.length) d := by
  have hplen : e.plen < e.bs := by simpa [Engine.plen, hp] using engine_bs_pos e
  rw [engineUpdate_eq_foldl_engineFeed hplen, foldl_engineFeed_empty d hp]

theorem absorbDirect_chain (e : Engine) (d : List Byte) : (absorbDirect e d).chain =
    (List.range (d.length / e.bs)).foldl (fun c j => compress c ((d.drop (j * e.bs)).take e.bs)) e.chain :=
  compressBlocks_chain _ e d

theorem absorbDirect_pbuf (e : Engine) (d : List Byte) :
    (absorbDirect e d).pbuf = e.pbuf ++ d.drop (d.length / e.bs * e.bs) :=
  congrArg (· ++ d.drop (d.length / e.bs * e.bs)) (compressBlocks_pbuf _ e d)

/-! ### What a constructed engine holds of the bytes it has absorbed (R264) -/

section
variable (a : Alg) (e : Engine) (m : List Byte)

theorem engineUpdate_engineConstruct_chain : (engineUpdate (engineConstruct a e) m).chain =
    (List.range (m.length / a.bs)).foldl (fun c j => compress c ((m.drop (j * a.bs)).take a.bs)) (initialChain a) := by
  rw [engineUpdate_of_empty rfl, absorbDirect_chain, countInput_bs, engineConstruct_bs]
  rfl

theorem engineUpdate_engineConstruct_pbuf :
    (engineUpdate (engineConstruct a e) m).pbuf = m.drop (m.length / a.bs * a.bs) := by
  rw [engineUpdate_of_empty rfl, absorbDirect_pbuf, countInput_bs, engineConstruct_bs]
  rfl

theorem engineUpdate_engineConstruct_plen : (engineUpdate (engineConstruct a e) m).plen = m.length % a.bs := by
  rw [engineUpdate_plen (engineConstruct_plen_lt a e), engineConstruct_bs]
  exact congrArg (· % a.bs) (Nat.zero_add m.length)

theorem engineUpdate_engineConstruct_count : (engineUpdate (engineConstruct a e) m).count = m.length :=
  (engineUpdate_count _ m).trans (Nat.zero_add m.length)

end

/-- Settles O39: the parts in turn are one update with the whole, whose blocks a constructed engine compresses from its
initial constants. -/
theorem chunkingChangesNothing : Obligations.ChunkingChangesNothing := by
  refine ⟨fun e parts hp => ?_, fun a e parts m hm => ?_⟩
  · rw [foldl_engineUpdate hp]; exact ⟨rfl, rfl⟩
  · rw [foldl_engineUpdate (engineConstruct_plen_lt a e), hm]
    exact ⟨engineUpdate_engineConstruct_chain a e m, engineUpdate_engineConstruct_pbuf a e m,
      engineUpdate_engineConstruct_plen a e m, engineUpdate_engineConstruct_count a e m⟩

end Sys2Proof.Machine
end

section
/-! Padding, the length field and digests (spec/41_engine.md R258 to R268): how many blocks a finalization compresses and
what stands in them, the length field as a number, and how long digests and tags are. -/

namespace Sys2Proof.Machine

/-! ### One block or two (R258, R260, R267) -/

/-- R267: the blocks a finalization compresses with `p` bytes pending. -/
def finalBlockCount (a : Alg) (p : Nat) : Nat := if p ≤ a.bs - a.lf - 1 then 1 else 2

theorem finalBlocks_length_eq {e : Engine} (hp : e.plen < e.bs) :
    (finalBlocks e).length = finalBlockCount e.alg e.plen * e.bs := by
  have hlf := lf_lt_bs e.alg
  rw [finalBlocks_length, finalBlockCount]
  unfold Engine.bs at *
  split
  · rw [padZeros_of_fits ‹_›]; omega
  · rw [padZeros_of_spills (by omega) hp]; omega

theorem engineFinish_eq {e : Engine} (hp : e.plen < e.bs) :
    engineFinish e = compressBlocks (finalBlockCount e.alg e.plen) e (finalBlocks e) := by
  rw [engineFinish, finalBlocks_length_eq hp, Nat.mul_div_cancel _ (engine_bs_pos e)]

/-- R267: at the boundary no zero byte is needed. -/
theorem padZeros_at_boundary {a : Alg} {p : Nat} (h : p = a.bs - a.lf - 1) : padZeros a p = 0 := by
  rw [padZeros_of_fits (le_of_eq h), h, Nat.sub_self]

theorem finalBlocks_of_noZeros {e : Engine} (h : padZeros e.alg e.plen = 0) :
    finalBlocks e = e.pbuf ++ [0x80#8] ++ lenField e.alg (8 * e.count) := by
  simp [finalBlocks, padding, h]

/-- R267: the first of two blocks, up to which the zero bytes of the padding reach. -/
def firstFinalBlock (e : Engine) : List Byte := e.pbuf ++ [0x80#8] ++ List.replicate (e.bs - 1 - e.plen) 0

theorem firstFinalBlock_length {e : Engine} (hp : e.plen < e.bs) : (firstFinalBlock e).length = e.bs := by
  simp only [firstFinalBlock, Engine.plen, List.length_append, List.length_singleton, List.length_replicate] at *
  omega

/-- R258, R267: where the padding takes a second block, its zero bytes fill the first and go on up to the length field. -/
theorem finalBlocks_of_spills {e : Engine} (h : e.bs - e.alg.lf - 1 < e.plen) (hp : e.plen < e.bs) :
    finalBlocks e = firstFinalBlock e ++ (List.replicate (e.bs - e.alg.lf) 0 ++ lenField e.alg (8 * e.count)) := by
  have hlf := lf_lt_bs e.alg
  have hzeros : padZeros e.alg e.plen = e.bs - 1 - e.plen + (e.bs - e.alg.lf) := by
    unfold Engine.bs at *
    rw [padZeros_of_spills h hp]; omega
  rw [finalBlocks, padding, firstFinalBlock, hzeros, ← List.replicate_append_replicate]
  simp only [List.append_assoc]

/-- Settles O41: the number of zero bytes fits what is pending to one block or to two. -/
theorem finalizationTakesOneOrTwoBlocks : Obligations.FinalizationTakesOneOrTwoBlocks := by
  refine ⟨fun a p => ?_, fun e hp => ⟨engineFinish_eq hp, finalBlocks_length_eq hp, fun h => ?_, fun h => ?_⟩⟩
  · cases a <;> simp [Alg.bs, Alg.lf]
  · have hzeros := padZeros_at_boundary h
    exact ⟨finalBlocks_of_noZeros hzeros, hzeros⟩
  · rw [finalBlocks_of_spills h hp]
    exact ⟨List.take_left' (firstFinalBlock_length hp), List.drop_left' (firstFinalBlock_length hp)⟩

/-! ### The length field as a number (R259, R268) -/

theorem lenField_little {a : Alg} (ho : a.order = .little) (l : Nat) :
    lenField a l = pack64le (BitVec.ofNat 64 l) := by
  cases a with
  | md5 | rmd160 => rfl
  | sha1 | sha256 | sha224 | sha512 | sha384 => cases ho

theorem lenField_big {a : Alg} (hlf : a.lf = 8) (ho : a.order = .big) (l : Nat) :
    lenField a l = pack64be (BitVec.ofNat 64 l) := by
  cases a with
  | sha1 | sha256 | sha224 => rfl
  | md5 | rmd160 => cases ho
  | sha512 | sha384 => cases hlf

theorem lenField_wide {a : Alg} (hlf : a.lf = 16) (l : Nat) :
    lenField a l = pack64be (BitVec.ofNat 64 (l >>> 64)) ++ pack64be (BitVec.ofNat 64 (l % 2 ^ 64)) := by
  cases a with
  | sha512 | sha384 => rfl
  | md5 | sha1 | sha256 | sha224 | rmd160 => cases hlf

/-- R268: within COUNT_MAX a field of eight bytes holds the bit count. -/
theorem toNat_ofNat_bitCount {a : Alg} {n : Nat} (hlf : a.lf = 8) (h : n ≤ a.countMax) :
    (BitVec.ofNat 64 (8 * n)).toNat = 8 * n := by
  rw [Alg.countMax, if_pos hlf] at h
  rw [BitVec.toNat_ofNat]; omega

/-- The eight bytes of a word at the front of a longer string. -/
theorem unpack64be_pack64be_append (w : W64) (s : List Byte) : unpack64be (pack64be w ++ s) 0 = w := by
  rw [unpack64be_eq (by simp [pack64be])]
  exact wordOfBytes_bytesOfWord 8 w

/-- The eight bytes of a word at the end of a string of sixteen. -/
theorem unpack64be_append_pack64be (v w : W64) : unpack64be (pack64be v ++ pack64be w) 8 = w := by
  rw [unpack64be_eq (by simp [pack64be])]
  exact wordOfBytes_bytesOfWord 8 w

/-- R268: the two words of a field of sixteen bytes hold the bit count. -/
theorem toNat_ofNat_bitCount_wide {a : Alg} {n : Nat} (hlf : a.lf = 16) (h : n ≤ a.countMax) :
    (BitVec.ofNat 64 ((8 * n) >>> 64)).toNat * 2 ^ 64 + (BitVec.ofNat 64 (8 * n % 2 ^ 64)).toNat = 8 * n := by
  rw [Alg.countMax, if_neg (by omega)] at h
  rw [BitVec.toNat_ofNat, BitVec.toNat_ofNat, Nat.shiftRight_eq_div_pow]; omega

/-- Settles O42: unpacking the words of the length field gives the bit count, which they can hold. -/
theorem lengthFieldHoldsTheBitCount : Obligations.LengthFieldHoldsTheBitCount := by
  intro a n hn
  refine ⟨lenField_length a _, fun hlf ho => ?_, fun hlf ho => ?_, fun hlf => ?_⟩
  · rw [lenField_little ho, unpack64le_pack64le, toNat_ofNat_bitCount hlf hn]
  · rw [lenField_big hlf ho, unpack64be_pack64be, toNat_ofNat_bitCount hlf hn]
  · rw [lenField_wide hlf, unpack64be_pack64be_append, unpack64be_append_pack64be, toNat_ofNat_bitCount_wide hlf hn]

/-! ### Digests and tags (R261, R265, R266, R556) -/

/-- R250, R261: the chaining words hold at least a digest. -/
theorem ds_le_packWords_length (c : Chain) : c.alg.ds ≤ (packWords c).length := by
  rw [packWords_length]; cases c.alg <;> decide

theorem digestBytes_length (c : Chain) : (digestBytes c).length = c.alg.ds :=
  List.length_take_of_le (ds_le_packWords_length c)

/-- R266: a digest has DS bytes, whatever the engine has absorbed. -/
theorem engineDigest_length (e : Engine) : (engineDigest e).length = e.alg.ds :=
  (digestBytes_length _).trans (congrArg Alg.ds (engineFinish_alg e))

theorem hmacFull_length (s : State) : (hmacFull s).length = s.engine.alg.ds := by
  simp [hmacFull, engineDigest_length]

/-- R556: a tag has OUTBITS/8 bytes. -/
theorem hmacTag_length {s : State} (h : s.outBits ≤ s.engine.alg.naturalBits) :
    (hmacTag s).length = s.outBits / 8 := by
  refine List.length_take_of_le ?_
  rw [hmacFull_length]
  rw [Alg.naturalBits] at h
  omega

theorem exec_hFinalize_pass {s : State} (hslot : s.slot = .hmac) :
    exec .hFinalize s = .next ((s.setEngine (hmacReprime s)).setResult ⟨.ok, 0, hmacTag s⟩) := by
  rw [exec, execHFinalize]
  exact runChecked_pass ((hmacChecks_pass s).2 hslot)

/-- Settles O43: the two commands return OK on their instance, with a digest and a tag of these lengths. -/
theorem digestsAndTagsHaveFixedLength : Obligations.DigestsAndTagsHaveFixedLength :=
  ⟨fun s hslot => ⟨_, _, exec_eFinalize_pass hslot, rfl, engineDigest_length s.engine⟩,
    fun _ hslot ⟨_, _, hle⟩ => ⟨_, _, exec_hFinalize_pass hslot, rfl, hmacTag_length hle⟩⟩

/-- Settles O44: a finalized engine is a constructed one, whose digests are those `digest` names. -/
theorem finalizedEngineIsFresh : Obligations.FinalizedEngineIsFresh := by
  intro e
  refine ⟨engineFinalize_eq_engineConstruct e, fun d => ?_⟩
  rw [engineFinalize_eq_engineConstruct, digest]

/-- Settles O45: the words are packed in order, and the first DS bytes end at the word the spec names. -/
theorem digestIsTheLeadingWords : Obligations.DigestIsTheLeadingWords := by
  refine ⟨fun _ _ => ⟨_, rfl, rfl⟩, fun _ _ => ⟨_, rfl, rfl⟩, fun _ => rfl, fun _ => rfl, fun _ => rfl, fun _ => rfl,
    fun _ => rfl, fun _ => rfl, fun _ => rfl, fun c => ⟨rfl, digestBytes_length c, ?_⟩⟩
  cases c <;> rfl

end Sys2Proof.Machine
end

section
/-! Runs of updates at the port (spec/41_engine.md R257, R264; spec/47_hmac.md R555): one update for each part of a message,
each a buffer's whole, leaves the engine that one update with the message does; and E_INIT, the updates and E_FINALIZE
return the message's digest. -/

namespace Sys2Proof.Machine

/-! ### The operand that presents a whole buffer (R101, R153) -/

/-- A buffer of which the slice is the whole: offset 0, its own length. -/
def wholeBuffer (p : List Byte) : Din := ⟨some p, 0#32, BitVec.ofNat 32 p.length⟩

section
variable {p : List Byte} (hp : p.length ≤ maxBufferLength)
include hp

theorem wholeBuffer_length : (wholeBuffer p).length = p.length := by
  have h : p.length ≤ 2 ^ 31 - 1 := hp
  simp only [wholeBuffer, Din.length, sext32]
  rw [BitVec.toInt_eq_toNat_of_lt (by rw [BitVec.toNat_ofNat]; omega), BitVec.toNat_ofNat]
  omega

theorem wholeBuffer_slice : (wholeBuffer p).slice = p := by
  rw [Din.slice, wholeBuffer_length hp]
  exact List.take_length

theorem wholeBuffer_hasSlice : (wholeBuffer p).HasSlice := by
  have hlen := wholeBuffer_length hp
  have hoff : (wholeBuffer p).offset = 0 := rfl
  exact ⟨p, rfl, by omega, by omega, by omega⟩

/-- R655, R657: a whole buffer passes the checks of an update that COUNT_MAX admits. -/
theorem updateChecks_wholeBuffer {s : State} (hdin : s.din = wholeBuffer p)
    (hmax : s.engine.count + p.length ≤ s.engine.alg.countMax) :
    firstFailure (sliceChecks ++ [checkLength]) s = none := by
  rw [firstFailure_append_none, firstFailure_single, sliceChecks_none_iff, checkLength_pass, hdin, wholeBuffer_length hp]
  exact ⟨wholeBuffer_hasSlice hp, by omega⟩

end

/-! ### One update for each part (R257, R555) -/

/-- R257, R555: the update command of the instance in the slot. An empty slot has none
(`exec_updateOf_pass` excludes it). -/
def updateOf : Slot → Instr
  | .engine => .eUpdate
  | .hmac | .empty => .hUpdate

theorem decode_updateOf (k : Slot) : decode (encode (updateOf k)) = .ok (updateOf k) := by cases k <;> rfl

/-- R257, R555: on an instance, its update command has the one effect on the engine, or the wrapped engine. -/
theorem exec_updateOf_pass {s : State} (hslot : s.slot ≠ .empty)
    (h : firstFailure (sliceChecks ++ [checkLength]) s = none) : exec (updateOf s.slot) s =
      .next ((s.setEngine (engineUpdate s.engine s.din.slice)).setResult ⟨.ok, 0, []⟩) := by
  cases hk : s.slot with
  | empty => exact absurd hk hslot
  | engine => exact exec_eUpdate_pass hk h
  | hmac =>
    rw [updateOf, exec, execHUpdate]
    exact runChecked_pass (by rw [List.append_assoc, hmacChecks_append]; exact ⟨hk, h⟩)

/-- One update command for each part, each presenting a buffer's whole. -/
def updateCommands (i : Instr) (parts : List (List Byte)) : List Command :=
  parts.map fun p => ⟨encode i, wholeBuffer p⟩

/-- R106, R257, R555: the step that runs an update with a whole buffer. -/
theorem step_update {s : State} {p : List Byte} {rest : List Command} (hslot : s.slot ≠ .empty)
    (hp : p.length ≤ maxBufferLength) (hmax : s.engine.count + p.length ≤ s.engine.alg.countMax)
    (hport : s.port = ⟨encode (updateOf s.slot), wholeBuffer p⟩ :: rest) :
    step s = .next { s with
      engine := engineUpdate s.engine p, port := rest, din := wholeBuffer p, result := some ⟨.ok, 0, []⟩ } := by
  have hchecks := updateChecks_wholeBuffer hp (s := s.setPort (wholeBuffer p) rest) rfl hmax
  have hexec := exec_updateOf_pass (s := s.setPort (wholeBuffer p) rest) hslot hchecks
  rw [setPort_din, wholeBuffer_slice hp] at hexec
  exact (stepRunsTheDecodedCommand _ _ _ _ hport (decode_updateOf s.slot)).trans hexec

/-- R264, R561 (d): a run of updates goes on from the state in which the engine has absorbed the parts in turn; but for it,
the port and the operand and result of the last update the block is as before. -/
theorem run_updateCommands (parts : List (List Byte)) {s : State} {rest : List Command} (hslot : s.slot ≠ .empty)
    (hparts : ∀ p ∈ parts, p.length ≤ maxBufferLength)
    (hmax : s.engine.count + parts.flatten.length ≤ s.engine.alg.countMax)
    (hport : s.port = updateCommands (updateOf s.slot) parts ++ rest) :
    ∃ d r, ∀ n, Sys2Proof.core.run (parts.length + n) s = Sys2Proof.core.run n
      { s with engine := parts.foldl engineUpdate s.engine, port := rest, din := d, result := r } := by
  induction parts generalizing s with
  | nil =>
    have hrest : s.port = rest := hport
    exact ⟨s.din, s.result, fun n => by rw [← hrest]; exact congrArg (Sys2Proof.core.run · s) (Nat.zero_add n)⟩
  | cons p parts ih =>
    obtain ⟨hp, hparts⟩ := List.forall_mem_cons.1 hparts
    rw [List.flatten_cons, List.length_append] at hmax
    have hstep := step_update hslot hp (by omega) hport
    have hmax' : (engineUpdate s.engine p).count + parts.flatten.length ≤ (engineUpdate s.engine p).alg.countMax := by
      rw [engineUpdate_count, engineUpdate_alg]; omega
    obtain ⟨d, r, hrun⟩ := ih (s := { s with
      engine := engineUpdate s.engine p, port := updateCommands (updateOf s.slot) parts ++ rest, din := wholeBuffer p,
      result := some ⟨.ok, 0, []⟩ }) hslot hparts hmax' rfl
    refine ⟨d, r, fun n => ?_⟩
    rw [List.length_cons, Nat.add_right_comm]
    exact (run_succ Sys2Proof.core hstep).trans (hrun n)

/-! ### E_INIT, the updates and E_FINALIZE (R254, R257, R262, R264) -/

/-- R254: the step of E_INIT leaves a constructed engine, the ERRSTAT there was, and the commands that wait. -/
theorem step_eInit {s : State} {a : Alg} {d : Din} {rest : List Command}
    (hport : s.port = ⟨encode (.eInit a.code), d⟩ :: rest) :
    ∃ t e, step s = .next t ∧ t.slot = .engine ∧ t.engine = engineConstruct a e ∧ t.errstat = s.errstat ∧
      t.port = rest := by
  have hdec : decode (encode (.eInit a.code)) = .ok (.eInit a.code) := decode_encode (by simp [Instr.wellFormed])
  exact ⟨_, _, (stepRunsTheDecodedCommand _ _ _ _ hport hdec).trans (exec_eInit_code a _), rfl, rfl,
    constructEngine_errstat a (s.setPort d rest), constructEngine_port a (s.setPort d rest)⟩

theorem step_eFinalize {s : State} {d : Din} {rest : List Command} (hslot : s.slot = .engine)
    (hport : s.port = ⟨encode .eFinalize, d⟩ :: rest) :
    step s = .next (((s.setPort d rest).setEngine (engineConstruct s.engine.alg .zero)).setResult
      ⟨.ok, 0, engineDigest s.engine⟩) := by
  have hexec := exec_eFinalize_pass (s := s.setPort d rest) hslot
  rw [engineFinalize_eq_engineConstruct] at hexec
  exact (stepRunsTheDecodedCommand _ _ _ _ hport (decode_encode rfl)).trans hexec

/-- R264: the digest after the parts in turn is the digest of the whole message. -/
theorem engineDigest_foldl_engineUpdate (a : Alg) (e : Engine) (parts : List (List Byte)) :
    engineDigest (parts.foldl engineUpdate (engineConstruct a e)) = digest a parts.flatten := by
  rw [foldl_engineUpdate (engineConstruct_plen_lt a e), engineDigest_engineUpdate_engineConstruct]

@[simp] theorem foldl_engineUpdate_alg (e : Engine) (parts : List (List Byte)) :
    (parts.foldl engineUpdate e).alg = e.alg := by
  induction parts generalizing e with
  | nil => rfl
  | cons p parts ih => rw [List.foldl_cons, ih, engineUpdate_alg]

/-- R257, R262: the run of the updates and E_FINALIZE's step. -/
theorem run_updateCommands_eFinalize (parts : List (List Byte)) {s : State} {d : Din} {rest : List Command}
    (hslot : s.slot = .engine) (hparts : ∀ p ∈ parts, p.length ≤ maxBufferLength)
    (hmax : s.engine.count + parts.flatten.length ≤ s.engine.alg.countMax)
    (hport : s.port = updateCommands .eUpdate parts ++ ⟨encode .eFinalize, d⟩ :: rest) :
    ∃ t, Sys2Proof.core.run (parts.length + 1) s = .next t ∧
      t.result = some ⟨.ok, 0, engineDigest (parts.foldl engineUpdate s.engine)⟩ ∧ t.slot = .engine ∧
      t.engine = engineConstruct s.engine.alg .zero ∧ t.errstat = s.errstat ∧ t.port = rest := by
  have hport' : s.port = updateCommands (updateOf s.slot) parts ++ ⟨encode .eFinalize, d⟩ :: rest := by
    rw [hslot]; exact hport
  obtain ⟨din, r, hupdates⟩ := run_updateCommands parts (by simp [hslot]) hparts hmax hport'
  have hfinalize := step_eFinalize (s := { s with
    engine := parts.foldl engineUpdate s.engine, port := ⟨encode .eFinalize, d⟩ :: rest, din := din, result := r })
    hslot rfl
  exact ⟨_, (hupdates 1).trans (run_succ Sys2Proof.core hfinalize), rfl, hslot,
    congrArg (engineConstruct · .zero) (foldl_engineUpdate_alg s.engine parts), rfl, rfl⟩

/-- Settles O56: E_INIT's step leaves a constructed engine, on which the updates and E_FINALIZE run. -/
theorem engineRunReturnsTheDigest : Obligations.EngineRunReturnsTheDigest := by
  intro s a parts rest d d' hparts hmax hport
  obtain ⟨u, e, hinit, hslot, hengine, herr, hport⟩ := step_eInit hport
  obtain ⟨t, hrun, hresult, hslot', hengine', herr', hport'⟩ :=
    run_updateCommands_eFinalize parts hslot hparts (by simpa [hengine] using hmax) hport
  rw [hengine, engineDigest_foldl_engineUpdate] at hresult
  rw [hengine, engineConstruct_alg] at hengine'
  refine ⟨t, (run_succ Sys2Proof.core hinit).trans hrun, hresult, hslot', ?_, ?_, ?_, ?_, herr'.trans herr, hport'⟩
  · rw [hengine', engineConstruct_alg]
  · rw [hengine', engineConstruct_chain]
  · rw [hengine']; rfl
  · rw [hengine', engineConstruct_count]

end Sys2Proof.Machine
end

section
/-! Message schedules (spec/43_sha1.md R352, R353). The model extends a schedule newest word first and reverses it at the
end; here it is the block's words, oldest first, to which the next word is appended again and again. -/

namespace Sys2Proof.Machine

/-! ### Appending a next word again and again -/

/-- One further word of a schedule; `f` computes it from the words so far, newest first. -/
def appendNext {α : Type} (f : List α → α) (w : List α) : List α := w ++ [f w.reverse]

section
variable {α : Type} (f : List α → α)

theorem length_iterate_appendNext (n : Nat) (w : List α) : ((appendNext f)^[n] w).length = w.length + n := by
  induction n with
  | zero => rfl
  | succ n ih =>
    rw [Function.iterate_succ_apply', appendNext, List.length_append, ih]
    rfl

/-- The words that were there first stay where they are. -/
theorem getD_iterate_appendNext_of_lt {t : Nat} {w : List α} (ht : t < w.length) (n : Nat) (d : α) :
    ((appendNext f)^[n] w).getD t d = w.getD t d := by
  induction n with
  | zero => rfl
  | succ n ih =>
    have hlt : t < ((appendNext f)^[n] w).length := by rw [length_iterate_appendNext]; omega
    rw [Function.iterate_succ_apply', appendNext, List.getD_append _ _ _ _ hlt, ih]

/-- Each later word is the next word of those before it: what is appended after it changes neither. -/
theorem getD_iterate_appendNext {n t : Nat} {w : List α} (hw : w.length ≤ t) (ht : t < w.length + n) (d : α) :
    ((appendNext f)^[n] w).getD t d = f (((appendNext f)^[n] w).take t).reverse := by
  induction n with
  | zero => omega
  | succ n ih =>
    have hlen := length_iterate_appendNext f n w
    rw [Function.iterate_succ_apply', appendNext]
    obtain hlt | rfl : t < w.length + n ∨ t = w.length + n := by omega
    · rw [List.getD_append _ _ _ _ (by omega), List.take_append_of_le_length (by omega), ih hlt]
    · rw [List.getD_append_right _ _ _ _ hlen.le, List.take_left' hlen, hlen, Nat.sub_self, List.getD_cons_zero]

end

/-- Newest first, the word at index `k` of the first `t` words is word `t - 1 - k`. -/
theorem getD_reverse_take {α : Type} {l : List α} {k t : Nat} (hk : k < t) (ht : t ≤ l.length) (d : α) :
    (l.take t).reverse.getD k d = l.getD (t - 1 - k) d := by
  have hlen := List.length_take_of_le ht
  rw [List.getD_reverse k (by omega), hlen, List.getD_eq_getElem?_getD, List.getD_eq_getElem?_getD,
    List.getElem?_take_of_lt (by omega)]

/-! ### The words of a block (R210) -/

@[simp] theorem unpackBlock32_length (unit : List Byte → Nat → W32) (b : List Byte) :
    (unpackBlock32 unit b).length = 16 := by simp [unpackBlock32]

theorem unpackBlock32_getD (unit : List Byte → Nat → W32) (b : List Byte) {t : Nat} (ht : t < 16) :
    (unpackBlock32 unit b).getD t 0 = unit b (4 * t) := by simp [unpackBlock32, ht]

/-! ### SHA-1's schedule (R352, R353) -/

theorem sha1Extend_reverse (n : Nat) (w : List W32) :
    (sha1Extend n w).reverse = (appendNext sha1Next)^[n] w.reverse := by
  induction n generalizing w with
  | zero => rfl
  | succ n ih => rw [sha1Extend, ih, Function.iterate_succ_apply, appendNext, List.reverse_cons, List.reverse_reverse]

theorem sha1Schedule_eq_iterate (b : List Byte) :
    sha1Schedule b = (appendNext sha1Next)^[64] (unpackBlock32 unpack32be b) := by
  rw [sha1Schedule, sha1Extend_reverse, List.reverse_reverse]

theorem sha1Schedule_length (b : List Byte) : (sha1Schedule b).length = 80 := by
  rw [sha1Schedule_eq_iterate, length_iterate_appendNext, unpackBlock32_length]

/-- R353: the next word by the numbers of the four words it takes. -/
theorem sha1Next_reverse_take {w : List W32} {t : Nat} (h : 16 ≤ t) (ht : t ≤ w.length) :
    sha1Next (w.take t).reverse =
      rotl (w.getD (t - 3) 0 ^^^ w.getD (t - 8) 0 ^^^ w.getD (t - 14) 0 ^^^ w.getD (t - 16) 0) 1 := by
  rw [sha1Next, getD_reverse_take (by omega) ht, getD_reverse_take (by omega) ht, getD_reverse_take (by omega) ht,
    getD_reverse_take (by omega) ht]
  simp only [Nat.sub_sub, Nat.reduceAdd]

/-- Settles O48: the sixteen words of the block stay in front, and each word after them is the next of those before it. -/
theorem sha1ScheduleRecurrence : Obligations.Sha1ScheduleRecurrence := by
  intro b
  refine ⟨sha1Schedule_length b, fun t ht => ?_, fun t h ht => ?_⟩
  · rw [sha1Schedule_eq_iterate, getD_iterate_appendNext_of_lt _ (by simpa using ht), unpackBlock32_getD _ _ ht]
  · rw [← sha1Next_reverse_take h (by rw [sha1Schedule_length]; omega), sha1Schedule_eq_iterate]
    exact getD_iterate_appendNext _ (by simpa using h) (by simpa using ht) 0

end Sys2Proof.Machine
end

section
/-! The message schedules of SHA-256 and SHA-512 (spec/44_sha256_224.md R405, spec/45_sha512_384.md R455). Both are one
recurrence over a word width and its σ0 and σ1; it is proved once, and each schedule is shown to be an instance of it. -/

namespace Sys2Proof.Machine

/-! ### The common recurrence -/

/-- What an extension by newest-first words leaves, oldest first: the next word appended again and again. -/
theorem reverse_extend_eq_iterate {α : Type} {f : List α → α} {extend : Nat → List α → List α}
    (hzero : ∀ w, extend 0 w = w) (hsucc : ∀ n w, extend (n + 1) w = extend n (f w :: w)) (n : Nat) (w : List α) :
    (extend n w).reverse = (appendNext f)^[n] w.reverse := by
  induction n generalizing w with
  | zero => rw [hzero, Function.iterate_zero_apply]
  | succ n ih => rw [hsucc, ih, Function.iterate_succ_apply, appendNext, List.reverse_cons, List.reverse_reverse]

/-- R405, R455: the next word of a SHA-2 schedule with the sigmas `s0` and `s1`, from the words so far, newest first. -/
def sha2Next {N : Nat} (s0 s1 : BitVec N → BitVec N) (w : List (BitVec N)) : BitVec N :=
  s1 (w.getD 1 0) + w.getD 6 0 + s0 (w.getD 14 0) + w.getD 15 0

section
variable {N : Nat} (s0 s1 : BitVec N → BitVec N)

/-- The next word by the numbers of the four words it takes. -/
theorem sha2Next_reverse_take {w : List (BitVec N)} {t : Nat} (h : 16 ≤ t) (ht : t ≤ w.length) :
    sha2Next s0 s1 (w.take t).reverse =
      s1 (w.getD (t - 2) 0) + w.getD (t - 7) 0 + s0 (w.getD (t - 15) 0) + w.getD (t - 16) 0 := by
  rw [sha2Next, getD_reverse_take (by omega) ht, getD_reverse_take (by omega) ht, getD_reverse_take (by omega) ht,
    getD_reverse_take (by omega) ht]
  simp only [Nat.sub_sub, Nat.reduceAdd]

/-- Each word after a block's sixteen is the next of those before it. -/
theorem getD_iterate_appendNext_sha2Next {m w : List (BitVec N)} {n t : Nat}
    (hw : w = (appendNext (sha2Next s0 s1))^[n] m) (hm : m.length = 16) (h : 16 ≤ t) (ht : t < 16 + n) :
    w.getD t 0 = s1 (w.getD (t - 2) 0) + w.getD (t - 7) 0 + s0 (w.getD (t - 15) 0) + w.getD (t - 16) 0 := by
  have hlen : w.length = 16 + n := by rw [hw, length_iterate_appendNext, hm]
  rw [← sha2Next_reverse_take s0 s1 h (by omega), hw]
  exact getD_iterate_appendNext _ (by omega) (by omega) 0

end

/-! ### SHA-256's schedule (R405) -/

theorem sha256Next_eq_sha2Next : sha256Next = sha2Next sha256SmallSigma0 sha256SmallSigma1 := rfl

theorem sha256Schedule_eq_iterate (b : List Byte) :
    sha256Schedule b =
      (appendNext (sha2Next sha256SmallSigma0 sha256SmallSigma1))^[48] (unpackBlock32 unpack32be b) := by
  rw [sha256Schedule, reverse_extend_eq_iterate (fun _ => rfl) (fun _ _ => rfl), List.reverse_reverse,
    sha256Next_eq_sha2Next]

theorem sha256Schedule_length (b : List Byte) : (sha256Schedule b).length = 64 := by
  rw [sha256Schedule_eq_iterate, length_iterate_appendNext, unpackBlock32_length]

theorem sha256Schedule_getD_of_lt (b : List Byte) {t : Nat} (ht : t < 16) :
    (sha256Schedule b).getD t 0 = unpack32be b (4 * t) := by
  rw [sha256Schedule_eq_iterate, getD_iterate_appendNext_of_lt _ (by simpa using ht), unpackBlock32_getD _ _ ht]

/-! ### SHA-512's schedule (R455) -/

@[simp] theorem unpackBlock64_length (unit : List Byte → Nat → W64) (b : List Byte) :
    (unpackBlock64 unit b).length = 16 := by simp [unpackBlock64]

theorem unpackBlock64_getD (unit : List Byte → Nat → W64) (b : List Byte) {t : Nat} (ht : t < 16) :
    (unpackBlock64 unit b).getD t 0 = unit b (8 * t) := by simp [unpackBlock64, ht]

theorem sha512Next_eq_sha2Next : sha512Next = sha2Next sha512SmallSigma0 sha512SmallSigma1 := rfl

theorem sha512Schedule_eq_iterate (b : List Byte) :
    sha512Schedule b =
      (appendNext (sha2Next sha512SmallSigma0 sha512SmallSigma1))^[64] (unpackBlock64 unpack64be b) := by
  rw [sha512Schedule, reverse_extend_eq_iterate (fun _ => rfl) (fun _ _ => rfl), List.reverse_reverse,
    sha512Next_eq_sha2Next]

theorem sha512Schedule_length (b : List Byte) : (sha512Schedule b).length = 80 := by
  rw [sha512Schedule_eq_iterate, length_iterate_appendNext, unpackBlock64_length]

theorem sha512Schedule_getD_of_lt (b : List Byte) {t : Nat} (ht : t < 16) :
    (sha512Schedule b).getD t 0 = unpack64be b (8 * t) := by
  rw [sha512Schedule_eq_iterate, getD_iterate_appendNext_of_lt _ (by simpa using ht), unpackBlock64_getD _ _ ht]

/-- Settles O49: both schedules are the common recurrence over the sixteen words of their block. -/
theorem sha2ScheduleRecurrences : Obligations.Sha2ScheduleRecurrences := by
  refine ⟨fun b => ⟨sha256Schedule_length b, fun t => sha256Schedule_getD_of_lt b, fun t h ht => ?_⟩,
    fun b => ⟨sha512Schedule_length b, fun t => sha512Schedule_getD_of_lt b, fun t h ht => ?_⟩⟩
  · exact getD_iterate_appendNext_sha2Next _ _ (sha256Schedule_eq_iterate b) (unpackBlock32_length _ b) h ht
  · exact getD_iterate_appendNext_sha2Next _ _ (sha512Schedule_eq_iterate b) (unpackBlock64_length _ b) h ht

end Sys2Proof.Machine
end

section
/-! The pads and the tag (spec/47_hmac.md R550 to R552, R556): the pads byte by byte, what a key longer than a block acts as,
and the tag as a digest. -/

namespace Sys2Proof.Machine

/-! ### The effective key (R552) -/

theorem effectiveKey_of_le {a : Alg} {k : List Byte} (h : k.length ≤ a.bs) : effectiveKey a k = k := if_pos h

theorem effectiveKey_of_lt {a : Alg} {k : List Byte} (h : a.bs < k.length) : effectiveKey a k = digest a k :=
  if_neg h.not_ge

/-- R552: a digest is shorter than a block, so as a key it acts verbatim. -/
theorem effectiveKey_digest (a : Alg) (k : List Byte) : effectiveKey a (digest a k) = digest a k :=
  effectiveKey_of_le ((digest_length_le a k).trans (ds_lt_bs a).le)

/-- R561 (a): a key longer than a block is padded as its digest is. -/
theorem paddedKey_digest {a : Alg} {k : List Byte} (h : a.bs < k.length) : paddedKey a (digest a k) = paddedKey a k := by
  rw [paddedKey, paddedKey, effectiveKey_digest, effectiveKey_of_lt h]

theorem paddedKey_of_block {a : Alg} {k : List Byte} (h : k.length = a.bs) : paddedKey a k = k := by
  rw [paddedKey, effectiveKey_of_le h.le, h, Nat.sub_self, List.replicate_zero, List.append_nil]

/-! ### The pads byte by byte (R61, R551) -/

/-- R551: the padded key is the effective key, zero beyond its end. -/
theorem paddedKey_getD (a : Alg) (k : List Byte) (i : Nat) :
    (paddedKey a k).getD i 0 = (effectiveKey a k).getD i 0 := by
  by_cases hi : i < (effectiveKey a k).length
  · exact List.getD_append _ _ _ _ hi
  · have hge := Nat.le_of_not_lt hi
    rw [paddedKey, List.getD_append_right _ _ _ _ hge, List.getD_eq_default _ _ hge]
    simp only [List.getD_eq_getElem?_getD, List.getElem?_replicate]
    split <;> rfl

theorem getD_map_of_lt (f : Byte → Byte) {l : List Byte} {i : Nat} (hi : i < l.length) :
    (l.map f).getD i 0 = f (l.getD i 0) := by
  rw [List.getD_eq_getElem _ _ hi, List.getD_eq_getElem _ _ (by simpa using hi), List.getElem_map]

section
variable (a : Alg) (k : List Byte) {i : Nat} (hi : i < a.bs)
include hi

theorem innerPad_getD : (innerPad a k).getD i 0 = 0x36#8 ^^^ (effectiveKey a k).getD i 0 := by
  rw [innerPad, getD_map_of_lt _ (by simpa using hi), paddedKey_getD]

theorem outerPad_getD : (outerPad a k).getD i 0 = 0x5C#8 ^^^ (effectiveKey a k).getD i 0 := by
  rw [outerPad, getD_map_of_lt _ (by simpa using hi), paddedKey_getD]

end

/-- Settles O50: the padded key is a block long, and masking acts byte by byte. -/
theorem padsAreTheMaskedEffectiveKey : Obligations.PadsAreTheMaskedEffectiveKey :=
  fun a k => ⟨by simp, by simp, fun _ hi => ⟨innerPad_getD a k hi, outerPad_getD a k hi⟩⟩

/-! ### Keys with the same pads (R561 (a)) -/

theorem innerPad_digest {a : Alg} {k : List Byte} (h : a.bs < k.length) : innerPad a (digest a k) = innerPad a k := by
  rw [innerPad, innerPad, paddedKey_digest h]

theorem outerPad_digest {a : Alg} {k : List Byte} (h : a.bs < k.length) : outerPad a (digest a k) = outerPad a k := by
  rw [outerPad, outerPad, paddedKey_digest h]

/-- Masking with 0x36 loses nothing of the padded key. -/
theorem paddedKey_eq_of_innerPad_eq {a : Alg} {k k' : List Byte} (h : innerPad a k = innerPad a k') :
    paddedKey a k = paddedKey a k' :=
  List.map_injective_iff.2 (fun _ _ => (BitVec.xor_right_inj 0x36#8).1) h

/-- Settles O51: a key acts through its effective key alone, and a key of exactly a block is its own padded key. -/
theorem longKeyActsAsItsDigest : Obligations.LongKeyActsAsItsDigest := by
  refine ⟨fun _ _ => effectiveKey_of_le, fun a k h => ⟨effectiveKey_of_lt h, (innerPad_digest h).symm,
    (outerPad_digest h).symm, fun m => ?_⟩, fun a k k' hk hk' h => ?_⟩
  · rw [hmacFormula, hmacFormula, innerPad_digest h, outerPad_digest h]
  · rw [← paddedKey_of_block hk, ← paddedKey_of_block hk', paddedKey_eq_of_innerPad_eq h]

/-! ### The tag (R556, R559) -/

/-- R556: the full-size tag is the digest of OPAD followed by the inner digest. -/
theorem hmacFull_eq_digest (s : State) :
    hmacFull s = digest s.engine.alg (s.opad ++ engineDigest s.engine) := by
  have hfresh : engineReset (engineFinalize s.engine) = engineConstruct s.engine.alg .zero := by
    rw [engineFinalize_eq_engineConstruct, engineReset, engineConstruct_alg]; rfl
  rw [hmacFull, hfresh]
  exact congrArg engineDigest (engineUpdate_absorbed s.engine.alg s.opad (engineDigest s.engine))

theorem hmacTag_eq_take_digest (s : State) :
    hmacTag s = (digest s.engine.alg (s.opad ++ engineDigest s.engine)).take (s.outBits / 8) := by
  rw [hmacTag, hmacFull_eq_digest]

end Sys2Proof.Machine
end

section
/-! The HMAC commands (spec/47_hmac.md R553 to R558): the checks past the instance checks, and the whole next state of each
command. -/

namespace Sys2Proof.Machine

/-! ### The checks (R651, R654, R655, R656) -/

theorem exec_needsHmac_engine {i : Instr} {s : State} (hi : needsHmac i = true) (h : s.slot = .engine) :
    exec i s = .next (failed .kind s) := by
  obtain ⟨cs, f, hrun⟩ := exec_of_needsHmac hi
  rw [hrun, runChecked_fail (hmacChecks_engine h cs)]

/-- R654: on an HMAC instance the instance checks leave the command its other checks alone. -/
theorem firstFailure_hmac {s : State} (h : s.slot = .hmac) (cs : List Check) :
    firstFailure (hmacChecks ++ cs) s = firstFailure cs s := by
  rw [firstFailure_append, (hmacChecks_pass s).2 h, Option.none_or]

theorem checkKeySize_fail {s : State} (h : s.din.len.toInt > s.keyCapacity) : checkKeySize s = some .config := if_pos h

/-- R656: either of H_INIT's two configuration checks that fails fails it with the same code. -/
theorem configChecks_fail {a : Alg} {imm : BitVec 16} {s : State}
    (h : checkOutBits a imm s = some .config ∨ checkKeySize s = some .config) :
    firstFailure [checkOutBits a imm, checkKeySize] s = some .config := by
  rw [firstFailure_cons, firstFailure_single]
  cases hout : checkOutBits a imm s with
  | some c => rw [checkOutBits_code hout]; rfl
  | none => simpa [hout] using h

theorem checkOutBits_fail {a : Alg} {imm : BitVec 16}
    (h : hmacOutBits a imm % 8 ≠ 0 ∨ hmacOutBits a imm > a.naturalBits) (s : State) :
    checkOutBits a imm s = some .config := if_pos h

/-! ### Setting a key (R551) -/

/-- R551, R59: an engine that has absorbed a pad has compressed one block, and its scratch is clear. -/
theorem absorbed_innerPad (a : Alg) (k : List Byte) :
    absorbed a (innerPad a k) = ⟨compress (initialChain a) (innerPad a k), [], a.bs, .cleared⟩ := by
  rw [absorbed, engineUpdate_block rfl (by simp), engineConstruct_chain, engineConstruct_count, engineConstruct_bs,
    Nat.zero_add]

theorem hmacSetKey_eq (s : State) (k : List Byte) : hmacSetKey s k = { s with
    engine := absorbed s.engine.alg (innerPad s.engine.alg k),
    ipad := innerPad s.engine.alg k, opad := outerPad s.engine.alg k, key := k } := by
  rw [← hmacSetKey_engine_absorbed]; rfl

/-- R553: nothing of the instance that H_INIT replaces is left. -/
theorem constructHmac_eq (a : Alg) (n : Nat) (k : List Byte) (s : State) : constructHmac a n k s = { s with
    slot := .hmac, engine := absorbed a (innerPad a k),
    ipad := innerPad a k, opad := outerPad a k, key := k, outBits := n } := by
  rw [constructHmac, hmacSetKey_eq, discardInstance_eq]
  simp [State.setSlot, State.setEngine, State.setOutBits]

/-! ### H_INIT (R553) -/

theorem exec_hInit_reserved {c : BitVec 4} (h : 7 ≤ c.toNat) (imm : BitVec 16) (s : State) :
    exec (.hInit c imm) s = .next (failed .illegal s) := by
  simp [exec, execHInit, (ofCode?_eq_none_iff c).2 h]

theorem exec_hInit_code (a : Alg) (imm : BitVec 16) (s : State) : exec (.hInit a.code imm) s =
    runChecked (sliceChecks ++ [checkOutBits a imm, checkKeySize])
      (fun s => complete 0 [] (constructHmac a (hmacOutBits a imm) s.din.slice s)) s := by
  simp [exec, execHInit]

theorem exec_hInit_fail {a : Alg} {imm : BitVec 16} {s : State} {c : Status}
    (h : firstFailure (sliceChecks ++ [checkOutBits a imm, checkKeySize]) s = some c) :
    exec (.hInit a.code imm) s = .next (failed c s) := by
  rw [exec_hInit_code, runChecked_fail h]

theorem exec_hInit_pass {a : Alg} {imm : BitVec 16} {s : State} (hslice : firstFailure sliceChecks s = none)
    (hout : checkOutBits a imm s = none) (hkey : checkKeySize s = none) : exec (.hInit a.code imm) s =
      .next ((constructHmac a (hmacOutBits a imm) s.din.slice s).setResult ⟨.ok, 0, []⟩) := by
  rw [exec_hInit_code]
  refine runChecked_pass ?_
  rw [firstFailure_append_none, firstFailure_cons, hout, Option.none_or, firstFailure_single]
  exact ⟨hslice, hkey⟩

/-- R155: the mask covers OPC and RSV, so ALG and IMM are free. -/
theorem encode_hInit_mask (c : BitVec 4) (imm : BitVec 16) :
    encode (.hInit c imm) &&& 0xFF0F0000#32 = 0x11000000#32 := by
  simpa [encode, packFields] using Laws.RowSelects.packFields_and 0x11#8 0xFF#8 c 0#4 imm 0#16 0xF#4

/-- Settles O16: each clause is the first check that fails, or that none does and the key is set on a constructed engine. -/
theorem hInitConstructsAPrimedInstance : Obligations.HInitConstructsAPrimedInstance := by
  refine ⟨encode_hInit_mask, fun a imm n k s b hbuf hoff hlen hend hn hmod hle hcap hk => ?_,
    fun c imm s hc => exec_hInit_reserved hc imm s, fun a imm s hbuf => exec_hInit_fail (sliceChecks_null hbuf _),
    fun a imm s b hbuf hneg => exec_hInit_fail (sliceChecks_negative hbuf hneg _),
    fun a imm s b hbuf hoff hlen hend => exec_hInit_fail (sliceChecks_range hbuf hoff hlen hend _),
    fun a imm n s b hbuf hoff hlen hend hn hbad => exec_hInit_fail ?_⟩
  · change n = hmacOutBits a imm at hn
    have hout := (checkOutBits_pass a imm s).2 ⟨hn ▸ hmod, hn ▸ hle⟩
    have hslice := (sliceChecks_pass s).2 ⟨b, hbuf, hoff, hlen, hend⟩
    rw [exec_hInit_pass hslice hout ((checkKeySize_pass s).2 hcap), constructHmac_eq, slice_of_buf hbuf, ← hk, ← hn,
      absorbed_innerPad]
    rfl
  · change n = hmacOutBits a imm at hn
    rw [sliceChecks_append hbuf hoff hlen hend]
    rcases hbad with hmod | hgt | hcap
    · exact configChecks_fail (.inl (checkOutBits_fail (.inl (hn ▸ hmod)) s))
    · exact configChecks_fail (.inl (checkOutBits_fail (.inr (hn ▸ hgt)) s))
    · exact configChecks_fail (.inr (checkKeySize_fail hcap))

/-! ### H_SETKEY (R554) -/

section
variable {s : State} (hslot : s.slot = .hmac)
include hslot

theorem exec_hSetkey_fail {c : Status} (h : firstFailure (sliceChecks ++ [checkKeySize]) s = some c) :
    exec .hSetkey s = .next (failed c s) := by
  rw [exec, execHSetkey]
  exact runChecked_fail (by rw [List.append_assoc, firstFailure_hmac hslot, h])

theorem exec_hSetkey_pass (h : firstFailure (sliceChecks ++ [checkKeySize]) s = none) :
    exec .hSetkey s = .next ((hmacSetKey s s.din.slice).setResult ⟨.ok, 0, []⟩) := by
  rw [exec, execHSetkey]
  exact runChecked_pass (by rw [List.append_assoc, firstFailure_hmac hslot, h])

end

/-- R651, R655, R656: a legal slice leaves H_SETKEY the key size check alone. -/
theorem keyChecks_of_slice {s : State} {b : List Byte} (hbuf : s.din.buf = some b) (hoff : 0 ≤ s.din.off.toInt)
    (hlen : 0 ≤ s.din.len.toInt) (hend : s.din.off.toInt + s.din.len.toInt ≤ b.length) :
    firstFailure (sliceChecks ++ [checkKeySize]) s = checkKeySize s := by
  rw [sliceChecks_append hbuf hoff hlen hend, firstFailure_single]

theorem exec_hSetkey_slice {s : State} {b : List Byte} (hslot : s.slot = .hmac) (hbuf : s.din.buf = some b)
    (hoff : 0 ≤ s.din.off.toInt) (hlen : 0 ≤ s.din.len.toInt) (hend : s.din.off.toInt + s.din.len.toInt ≤ b.length)
    (hcap : s.din.len.toInt ≤ s.keyCapacity) : exec .hSetkey s =
      .next ((hmacSetKey s ((b.drop s.din.off.toInt.toNat).take s.din.len.toInt.toNat)).setResult ⟨.ok, 0, []⟩) := by
  have hchecks := (keyChecks_of_slice hbuf hoff hlen hend).trans ((checkKeySize_pass s).2 hcap)
  rw [exec_hSetkey_pass hslot hchecks, slice_of_buf hbuf]

/-- Settles O17: each clause is the first check that fails, or that none does and the key is set. -/
theorem hSetkeyRekeysTheInstance : Obligations.HSetkeyRekeysTheInstance := by
  refine ⟨rfl, fun k s b hslot hbuf hoff hlen hend hcap hk => ?_,
    fun _ => exec_needsHmac_empty rfl, fun _ => exec_needsHmac_engine rfl,
    fun _ hslot hbuf => exec_hSetkey_fail hslot (sliceChecks_null hbuf _),
    fun _ _ hslot hbuf hneg => exec_hSetkey_fail hslot (sliceChecks_negative hbuf hneg _),
    fun _ _ hslot hbuf hoff hlen hend => exec_hSetkey_fail hslot (sliceChecks_range hbuf hoff hlen hend _),
    fun _ _ hslot hbuf hoff hlen hend hcap =>
      exec_hSetkey_fail hslot ((keyChecks_of_slice hbuf hoff hlen hend).trans (checkKeySize_fail hcap))⟩
  rw [exec_hSetkey_slice hslot hbuf hoff hlen hend hcap, ← hk, hmacSetKey_eq, absorbed_innerPad]
  rfl

/-! ### H_UPDATE (R555) -/

theorem exec_hUpdate_fail {s : State} {c : Status} (hslot : s.slot = .hmac)
    (h : firstFailure (sliceChecks ++ [checkLength]) s = some c) : exec .hUpdate s = .next (failed c s) := by
  rw [exec, execHUpdate]
  exact runChecked_fail (by rw [List.append_assoc, firstFailure_hmac hslot, h])

theorem exec_hUpdate_pass {s : State} (hslot : s.slot = .hmac)
    (h : firstFailure (sliceChecks ++ [checkLength]) s = none) :
    exec .hUpdate s = .next ((s.setEngine (engineUpdate s.engine s.din.slice)).setResult ⟨.ok, 0, []⟩) := by
  have hexec := exec_updateOf_pass (by simp [hslot]) h
  rwa [hslot] at hexec

/-- Settles O18: each clause is the first check that fails, or that none does. -/
theorem hUpdateForwardsTheSlice : Obligations.HUpdateForwardsTheSlice := by
  refine ⟨rfl, fun s b hslot hbuf hoff hlen hend hmax => ?_,
    fun _ => exec_needsHmac_empty rfl, fun _ => exec_needsHmac_engine rfl,
    fun _ hslot hbuf => exec_hUpdate_fail hslot (sliceChecks_null hbuf _),
    fun _ _ hslot hbuf hneg => exec_hUpdate_fail hslot (sliceChecks_negative hbuf hneg _),
    fun _ _ hslot hbuf hoff hlen hend => exec_hUpdate_fail hslot (sliceChecks_range hbuf hoff hlen hend _),
    fun _ _ hslot hbuf hoff hlen hend hmax =>
      exec_hUpdate_fail hslot ((updateChecks_of_slice hbuf hoff hlen hend).trans (checkLength_fail hmax))⟩
  have hchecks := (updateChecks_of_slice hbuf hoff hlen hend).trans ((checkLength_pass s).2 hmax)
  rw [exec_hUpdate_pass hslot hchecks, slice_of_buf hbuf]
  rfl

/-! ### H_FINALIZE, H_RELEASE and H_GETKEY (R556, R557, R558) -/

/-- Settles O19: past the instance checks H_FINALIZE returns the tag and leaves the engine that has absorbed IPAD. -/
theorem hFinalizeReturnsTheTagAndReprimes : Obligations.HFinalizeReturnsTheTagAndReprimes := by
  refine ⟨rfl, fun s hslot => ?_, fun _ => exec_needsHmac_empty rfl, fun _ => exec_needsHmac_engine rfl⟩
  rw [exec_hFinalize_pass hslot, hmacReprime_eq_absorbed, hmacTag_eq_take_digest]
  rfl

theorem exec_hRelease_pass {s : State} (hslot : s.slot = .hmac) :
    exec .hRelease s = .next ((releaseInstance s).setResult ⟨.ok, 0, []⟩) := by
  rw [exec, execHRelease]
  exact runChecked_pass ((hmacChecks_pass s).2 hslot)

/-- R557: releasing an HMAC instance clears the engine and the key material and empties the slot. -/
theorem releaseInstance_of_hmac {s : State} (hslot : s.slot = .hmac) : releaseInstance s = { s with
    slot := .empty, engine := engineZeroize s.engine, ipad := padZero, opad := padZero, key := [], outBits := 0 } := by
  rw [releaseInstance, zeroize_of_hmac hslot]
  rfl

/-- Settles O20: past the instance checks H_RELEASE clears the instance. -/
theorem hReleaseWipesTheKeyMaterial : Obligations.HReleaseWipesTheKeyMaterial := by
  refine ⟨rfl, fun s hslot => ?_, fun _ => exec_needsHmac_empty rfl, fun _ => exec_needsHmac_engine rfl⟩
  rw [exec_hRelease_pass hslot, releaseInstance_of_hmac hslot]
  rfl

theorem exec_hGetkey_pass {s : State} (hslot : s.slot = .hmac) :
    exec .hGetkey s = .next (s.setResult ⟨.ok, BitVec.ofNat 32 s.key.length, s.key⟩) := by
  rw [exec, execHGetkey]
  exact runChecked_pass ((hmacChecks_pass s).2 hslot)

/-- Settles O21: past the instance checks H_GETKEY writes its result alone. -/
theorem hGetkeyReturnsTheKey : Obligations.HGetkeyReturnsTheKey :=
  ⟨rfl, fun _ => exec_hGetkey_pass, fun _ => exec_needsHmac_empty rfl, fun _ => exec_needsHmac_engine rfl⟩

end Sys2Proof.Machine
end

section
/-! HMAC laws over one and two commands (spec/47_hmac.md R558, R561, R562): truncation, re-keying, what H_FINALIZE leaves,
and reading the key back. -/

namespace Sys2Proof.Machine

/-- R559: at the natural size nothing of the full-size tag is cut off. -/
theorem hmacTag_of_naturalBits {s : State} (h : s.outBits = s.engine.alg.naturalBits) : hmacTag s = hmacFull s := by
  rw [hmacTag, h, Alg.naturalBits, Nat.mul_div_cancel_left _ (by decide), ← hmacFull_length, List.take_length]

/-- Settles O52: the full-size tag does not depend on OUTBITS, which says how much of it is returned. -/
theorem tagTruncationKeepsLeadingBytes : Obligations.TagTruncationKeepsLeadingBytes := by
  intro s n hslot _
  refine ⟨_, _, hmacFull s, exec_hFinalize_pass hslot, exec_hFinalize_pass hslot, ?_, rfl, hmacFull_length s⟩
  rw [setResult_result, hmacTag_of_naturalBits rfl]
  rfl

/-- R561 (c): constructing an HMAC instance over one of the same algorithm and output size is setting its key. -/
theorem constructHmac_eq_hmacSetKey {s : State} (hslot : s.slot = .hmac) (k : List Byte) :
    constructHmac s.engine.alg s.outBits k s = hmacSetKey s k := by
  rw [constructHmac_eq, hmacSetKey_eq, ← hslot]

/-- Settles O53: the legal output size passes H_INIT's further check, and both commands set the key. -/
theorem rekeyingIsConstructingAnew : Obligations.RekeyingIsConstructingAnew := by
  intro s imm b hslot hbits hlegal hbuf hoff hlen hend hcap
  obtain ⟨hmod, -, hle⟩ := hlegal
  have hslice := (sliceChecks_pass s).2 ⟨b, hbuf, hoff, hlen, hend⟩
  have hkey := (checkKeySize_pass s).2 hcap
  have hout := (checkOutBits_pass s.engine.alg imm s).2 (by rw [hbits]; exact ⟨hmod, hle⟩)
  refine ⟨_, exec_hSetkey_pass hslot ((keyChecks_of_slice hbuf hoff hlen hend).trans hkey), ?_⟩
  rw [exec_hInit_pass hslice hout hkey, hbits, constructHmac_eq_hmacSetKey hslot]

/-- Settles O54: H_FINALIZE and setting the key both leave the engine that has absorbed IPAD. -/
theorem finalizedInstanceIsAsKeyed : Obligations.FinalizedInstanceIsAsKeyed := by
  intro s hslot ⟨hipad, hopad, _⟩
  refine ⟨_, exec_hFinalize_pass hslot, hslot, ?_, hipad, hopad, rfl, rfl⟩
  rw [setResult_engine, setEngine_engine, hmacReprime_eq_absorbed, hmacSetKey_engine_absorbed, hipad]

/-- R106: the step of a command of the table that stands at the head of the port. -/
theorem step_encode {s : State} {i : Instr} {d : Din} {rest : List Command} (hi : i.wellFormed = true)
    (hport : s.port = ⟨encode i, d⟩ :: rest) : step s = exec i (s.setPort d rest) :=
  stepRunsTheDecodedCommand _ _ _ _ hport (decode_encode hi)

theorem toInt_toNat_of_nonneg {x : W32} (h : 0 ≤ x.toInt) : x.toInt.toNat = x.toNat := by
  rw [BitVec.toInt_eq_toNat_cond] at *
  split at h <;> omega

/-- R101: a legal slice has the length LEN says. -/
theorem slice_length {b : List Byte} {off len : W32} (hoff : 0 ≤ off.toInt) (hlen : 0 ≤ len.toInt)
    (hend : off.toInt + len.toInt ≤ b.length) : ((b.drop off.toInt.toNat).take len.toInt.toNat).length = len.toNat := by
  rw [List.length_take_of_le (by rw [List.length_drop]; omega), toInt_toNat_of_nonneg hlen]

/-- R554: the step of H_SETKEY leaves an HMAC instance with the slice as its key, and the commands that wait. -/
theorem step_hSetkey {s : State} {b : List Byte} {off len : W32} {rest : List Command} (hslot : s.slot = .hmac)
    (hoff : 0 ≤ off.toInt) (hlen : 0 ≤ len.toInt) (hend : off.toInt + len.toInt ≤ b.length)
    (hcap : len.toInt ≤ s.keyCapacity) (hport : s.port = ⟨encode .hSetkey, ⟨some b, off, len⟩⟩ :: rest) :
    ∃ t, step s = .next t ∧ t.slot = .hmac ∧ t.key = (b.drop off.toInt.toNat).take len.toInt.toNat ∧ t.port = rest :=
  ⟨_, (step_encode rfl hport).trans (exec_hSetkey_slice (s := s.setPort ⟨some b, off, len⟩ rest)
    hslot rfl hoff hlen hend hcap), hslot, rfl, rfl⟩

/-- R558: the step of H_GETKEY returns the key. -/
theorem step_hGetkey {s : State} {d : Din} {rest : List Command} (hslot : s.slot = .hmac)
    (hport : s.port = ⟨encode .hGetkey, d⟩ :: rest) :
    ∃ t, step s = .next t ∧ t.result = some ⟨.ok, BitVec.ofNat 32 s.key.length, s.key⟩ :=
  ⟨_, (step_encode rfl hport).trans (exec_hGetkey_pass (s := s.setPort d rest) hslot), rfl⟩

/-- Settles O55: H_SETKEY's step leaves the slice in KEY, which H_GETKEY's step returns. -/
theorem keyIsReadBackVerbatim : Obligations.KeyIsReadBackVerbatim := by
  intro s k off len b d rest hslot hoff hlen hend hcap hk hport
  have hklen : k.length = len.toNat := hk ▸ slice_length hoff hlen hend
  obtain ⟨t, hset, hslot, hkey, hport⟩ := step_hSetkey hslot hoff hlen hend hcap hport
  obtain ⟨u, hget, hresult⟩ := step_hGetkey hslot hport
  refine ⟨u, (run_succ Sys2Proof.core hset).trans (run_succ Sys2Proof.core hget), ?_, hklen⟩
  rw [hresult, hkey, ← hk, hklen, BitVec.ofNat_toNat, BitVec.setWidth_eq]

end Sys2Proof.Machine
end

section
/-! Runs of the HMAC commands at the port (spec/47_hmac.md R550, R555, R560, R561 (d)): H_INIT, one H_UPDATE for each part of
a message and H_FINALIZE. -/

namespace Sys2Proof.Machine

/-- R553: the step of H_INIT with a whole buffer as the key leaves an instance primed with IPAD, the ERRSTAT there was, and
the commands that wait. -/
theorem step_hInit {s : State} {a : Alg} {imm : BitVec 16} {k : List Byte} {rest : List Command}
    (hk : k.length ≤ maxBufferLength) (hcap : k.length ≤ s.keyCapacity) (hmod : hmacOutBits a imm % 8 = 0)
    (hle : hmacOutBits a imm ≤ a.naturalBits)
    (hport : s.port = ⟨encode (.hInit a.code imm), wholeBuffer k⟩ :: rest) :
    ∃ t, step s = .next t ∧ t.slot = .hmac ∧ t.engine = absorbed a (innerPad a k) ∧ t.opad = outerPad a k ∧ t.key = k ∧
      t.outBits = hmacOutBits a imm ∧ t.errstat = s.errstat ∧ t.port = rest := by
  have hslice := (sliceChecks_none_iff (s.setPort (wholeBuffer k) rest)).2 (wholeBuffer_hasSlice hk)
  have hkey : checkKeySize (s.setPort (wholeBuffer k) rest) = none := by
    rw [checkKeySize_pass, setPort_din, wholeBuffer_length hk]; exact Int.ofNat_le.2 hcap
  have hexec := exec_hInit_pass hslice ((checkOutBits_pass a imm _).2 ⟨hmod, hle⟩) hkey
  rw [setPort_din, wholeBuffer_slice hk, constructHmac_eq] at hexec
  exact ⟨_, (step_encode (by simp [Instr.wellFormed]) hport).trans hexec, rfl, rfl, rfl, rfl, rfl, rfl, rfl⟩

/-- R555: the run of H_UPDATEs on an HMAC instance, with one engine update of the whole. -/
theorem run_hUpdates (parts : List (List Byte)) {s : State} {rest : List Command} (hslot : s.slot = .hmac)
    (hplen : s.engine.plen < s.engine.bs) (hparts : ∀ p ∈ parts, p.length ≤ maxBufferLength)
    (hmax : s.engine.count + parts.flatten.length ≤ s.engine.alg.countMax)
    (hport : s.port = updateCommands .hUpdate parts ++ rest) :
    ∃ d r, ∀ n, Sys2Proof.core.run (parts.length + n) s = Sys2Proof.core.run n
      { s with engine := engineUpdate s.engine parts.flatten, port := rest, din := d, result := r } := by
  rw [← foldl_engineUpdate hplen]
  exact run_updateCommands parts (by simp [hslot]) hparts hmax (by rw [hslot]; exact hport)

/-- R550, R551: the tag of an instance whose engine has absorbed IPAD and the message. -/
theorem hmacTag_eq_take_hmacFormula {s : State} {a : Alg} {k m : List Byte}
    (hengine : s.engine = absorbed a (innerPad a k ++ m)) (hopad : s.opad = outerPad a k) :
    hmacTag s = (hmacFormula a k m).take (s.outBits / 8) := by
  rw [hmacTag_eq_take_digest, hengine, hopad, absorbed_alg]
  rfl

/-- R556, R559: the step of H_FINALIZE on such an instance returns the formula's value, truncated, and keeps the key. -/
theorem step_hFinalize {s : State} {a : Alg} {k m : List Byte} {d : Din} {rest : List Command} (hslot : s.slot = .hmac)
    (hengine : s.engine = absorbed a (innerPad a k ++ m)) (hopad : s.opad = outerPad a k)
    (hport : s.port = ⟨encode .hFinalize, d⟩ :: rest) :
    ∃ t, step s = .next t ∧ t.result = some ⟨.ok, 0, (hmacFormula a k m).take (s.outBits / 8)⟩ ∧ t.slot = .hmac ∧
      t.key = s.key ∧ t.errstat = s.errstat ∧ t.port = rest := by
  refine ⟨_, (step_encode rfl hport).trans (exec_hFinalize_pass (s := s.setPort d rest) hslot), ?_, hslot, rfl, rfl, rfl⟩
  rw [setResult_result, hmacTag_eq_take_hmacFormula (s := s.setPort d rest) hengine hopad, setPort_outBits]

/-- Settles O57: H_INIT's step leaves an instance primed with IPAD, which absorbs the message, and H_FINALIZE returns the tag
of both. -/
theorem hmacRunReturnsTheFormula : Obligations.HmacRunReturnsTheFormula := by
  intro s a imm k parts rest d hk hcap hmod hle hparts hmax hport
  obtain ⟨t, hinit, hslot, hengine, hopad, hkey, hout, herr, hport⟩ := step_hInit hk hcap hmod hle hport
  have hplen : t.engine.plen < t.engine.bs := hengine ▸ (absorbed_innerPad_engineInv a k).1
  obtain ⟨din, r, hupdates⟩ := run_hUpdates parts hslot hplen hparts (by simpa [hengine] using hmax) hport
  have habsorbed : engineUpdate t.engine parts.flatten = absorbed a (innerPad a k ++ parts.flatten) := by
    rw [hengine, engineUpdate_absorbed]
  obtain ⟨u, hfinalize, hresult, hslot', hkey', herr', hport'⟩ := step_hFinalize (s := { t with
    engine := engineUpdate t.engine parts.flatten, port := ⟨encode .hFinalize, d⟩ :: rest, din := din, result := r })
    hslot habsorbed hopad rfl
  rw [hout] at hresult
  exact ⟨u, (run_succ Sys2Proof.core hinit).trans ((hupdates 1).trans (run_succ Sys2Proof.core hfinalize)), hresult,
    hslot', hkey'.trans hkey, herr'.trans herr, hport'⟩

/-- Settles O59: both runs leave the engine that has absorbed the whole, from which H_FINALIZE computes the tag. -/
theorem hUpdatesInPartsAreOneHUpdate : Obligations.HUpdatesInPartsAreOneHUpdate := by
  intro s parts rest hslot hplen hlen hmax
  have hparts : ∀ p ∈ parts, p.length ≤ maxBufferLength := fun p hp =>
    (List.sublist_flatten_of_mem hp).length_le.trans hlen
  obtain ⟨d, r, hrun⟩ := run_hUpdates parts (s := { s with port := updateCommands .hUpdate parts ++ rest }) hslot hplen
    hparts hmax rfl
  have hstep := step_update (s := { s with port := updateCommands .hUpdate [parts.flatten] ++ rest })
    (p := parts.flatten) (rest := rest) (by simp [hslot]) hlen hmax (by rw [hslot]; rfl)
  exact ⟨_, _, _, _, _, hrun 0, hstep, rfl, exec_hFinalize_pass hslot, exec_hFinalize_pass hslot, rfl, rfl, rfl⟩

end Sys2Proof.Machine
end

section
/-! What each register read does (spec/48_query.md R600, R601): its one check, and the value of each register. -/

namespace Sys2Proof.Machine

/-- R600: RDREG's check passes exactly where the register needs no instance or there is one. -/
theorem regChecks_pass (r : Reg) (s : State) :
    firstFailure (regChecks r) s = none ↔ (r.needsInstance = true → s.slot ≠ .empty) := by
  unfold regChecks
  split <;> rename_i hr
  · rw [firstFailure_single, checkReleased_pass]
    exact ⟨fun h _ => h, fun h => h hr⟩
  · exact ⟨fun _ h => absurd h hr, fun _ => rfl⟩

/-- R600, R654: on an empty slot it fails for the registers of the instance. -/
theorem regChecks_empty {r : Reg} {s : State} (hr : r.needsInstance = true) (hslot : s.slot = .empty) :
    firstFailure (regChecks r) s = some .released := by
  rw [regChecks, if_pos hr, firstFailure_single]
  exact if_pos hslot

/-- R601: where the check passes, the register's value is returned and nothing else is written. -/
theorem exec_rdreg_pass {r : Reg} {s : State} {v : W32} (h : r.needsInstance = true → s.slot ≠ .empty)
    (hv : regVal r s = v) : exec (.rdreg r.number) s = .next (s.setResult ⟨.ok, v, []⟩) := by
  rw [exec_rdreg_listed (ofNumber?_number r), ← hv]
  exact runChecked_pass ((regChecks_pass r s).2 h)

theorem exec_rdreg_empty {r : Reg} {s : State} (hr : r.needsInstance = true) (hslot : s.slot = .empty) :
    exec (.rdreg r.number) s = .next (failed .released s) := by
  rw [exec_rdreg_listed (ofNumber?_number r), runChecked_fail (regChecks_empty hr hslot)]

/-- R601: ALG's code is zero-extended to the width of RVAL. -/
theorem regVal_alg (s : State) : regVal .alg s = BitVec.ofNat 32 s.engine.alg.code.toNat :=
  (BitVec.ofNat_toNat 32 _).symm

/-- R601: ERRSTAT's code is zero-extended to the width of RVAL. -/
theorem regVal_errstat (s : State) : regVal .errstat s = BitVec.ofNat 32 s.errstat.code.toNat :=
  (BitVec.ofNat_toNat 32 _).symm

/-- R155: the mask covers OPC, ALG and RSV, so IMM is free. -/
theorem encode_rdreg_mask (n : BitVec 16) : encode (.rdreg n) &&& 0xFFFF0000#32 = 0x21000000#32 := by
  simpa [encode, packFields] using Laws.RowSelects.packFields_and 0x21#8 0xFF#8 0#4 0xF#4 n 0#16 0xF#4

/-- R65: the numbers that need an instance are those of the first four registers of the table. -/
theorem exec_rdreg_number_empty {s : State} (hslot : s.slot = .empty) :
    ∀ n ∈ [0x0#16, 0x1#16, 0x2#16, 0x3#16], exec (.rdreg n) s = .next (failed .released s) := by
  have hneeds : ∀ r ∈ [Reg.blockSize, .hashSize, .outputSize, .alg], r.needsInstance = true := by decide
  change ∀ n ∈ [Reg.blockSize, .hashSize, .outputSize, .alg].map Reg.number, _
  exact List.forall_mem_map.2 fun r hr => exec_rdreg_empty (hneeds r hr) hslot

/-- Settles O22: a register whose check passes returns its value, and no other number is a register's. -/
theorem rdregReturnsTheRegister : Obligations.RdregReturnsTheRegister := by
  refine ⟨encode_rdreg_mask, fun s hslot => ⟨?_, ?_, ?_, ?_⟩, fun _ => exec_rdreg_number_empty, fun s => ⟨?_, ?_⟩,
    fun n s hn => exec_rdreg_unlisted ((ofNumber?_eq_none_iff n).2 hn) s⟩
  · exact exec_rdreg_pass (r := .blockSize) (fun _ => hslot) rfl
  · exact exec_rdreg_pass (r := .hashSize) (fun _ => hslot) rfl
  · exact exec_rdreg_pass (r := .outputSize) (fun _ => hslot) rfl
  · exact exec_rdreg_pass (r := .alg) (fun _ => hslot) (regVal_alg s)
  · exact exec_rdreg_pass (r := .errstat) nofun (regVal_errstat s)
  · refine exec_rdreg_pass (r := .slot) nofun ?_
    cases hslot : s.slot <;> simp [regVal, Slot.code, hslot]

end Sys2Proof.Machine
end

section
/-! What a command's status says (spec/60_exceptions.md R650 to R654, R667): a status that is not OK is that of the one error
path, OK is that of an effect, and a failing command reports a code of a check it runs. -/

namespace Sys2Proof.Machine

/-- Settles O8: with nothing at the port, `step` takes its first branch. -/
theorem idleBlockHoldsItsState : Obligations.IdleBlockHoldsItsState := by
  intro s hport
  rw [step, hport]

/-! ### A command has failed where its status is not OK, and has had its effect where it is (R652, R154) -/

section
variable {i : Instr} {s t : State} {r : Result}

theorem eq_failed_of_status_ne_ok (h : exec i s = .next t) (hr : t.result = some r) (hne : r.status ≠ .ok) :
    t = failed r.status s := by
  rcases exec_cases h with ⟨c, -, rfl⟩ | heff
  · rw [← Option.some.inj hr]
  · obtain ⟨v, d, hv⟩ := effect_result heff
    rw [← Option.some.inj (hv.symm.trans hr)] at hne
    exact absurd rfl hne

theorem effect_of_status_ok (h : exec i s = .next t) (hr : t.result = some r) (hok : r.status = .ok) : Effect i s t := by
  rcases exec_cases h with ⟨c, hc, rfl⟩ | heff
  · rw [← Option.some.inj hr] at hok
    exact absurd hok hc
  · exact heff

/-- R654: on an empty slot no command has an effect but the INITs and the reads of the two registers that need no
instance. -/
theorem effect_of_empty (hslot : s.slot = .empty) (h : Effect i s t) :
    (∃ a, i = .eInit a) ∨ (∃ a n, i = .hInit a n) ∨ i = .rdreg Reg.errstat.number ∨ i = .rdreg Reg.slot.number := by
  cases i with
  | eInit c => exact .inl ⟨c, rfl⟩
  | hInit c n => exact .inr (.inl ⟨c, n, rfl⟩)
  | rdreg n =>
    obtain ⟨reg, rfl, hneeds, -⟩ := h
    cases reg with
    | blockSize | hashSize | outputSize | alg => exact absurd hslot (hneeds rfl)
    | errstat => exact .inr (.inr (.inl rfl))
    | slot => exact .inr (.inr (.inr rfl))
  | eReset | eUpdate | eFinalize | eRelease | hSetkey | hUpdate | hFinalize | hRelease | hGetkey =>
    obtain ⟨hinst, -⟩ := h
    cases hslot.symm.trans hinst

end

/-- Settles O24: a failing command leaves the state of `failed`, which is the one R652 writes out. -/
theorem failingCommandChangesOnlyErrstat : Obligations.FailingCommandChangesOnlyErrstat :=
  fun _ _ _ _ h hr hne => eq_failed_of_status_ne_ok h hr hne

/-- Settles O27: a command that returns OK has its effect, and few have one on an empty slot. -/
theorem emptySlotAdmitsOnlyInitAndStatus : Obligations.EmptySlotAdmitsOnlyInitAndStatus :=
  fun _ _ _ _ hslot h hr hok => effect_of_empty hslot (effect_of_status_ok h hr hok)

/-! ### The codes a list of checks can raise (R651) -/

/-- R651: whatever the state, the first of the checks that fails raises one of the codes. -/
def ChecksRaise (cs : List Check) (codes : List Status) : Prop := ∀ s c, firstFailure cs s = some c → c ∈ codes

theorem checksRaise_nil : ChecksRaise [] [] := by
  intro s c hc
  rw [firstFailure_nil] at hc
  cases hc

theorem checksRaise_single {k : Check} {code : Status} (h : ∀ {s c}, k s = some c → c = code) : ChecksRaise [k] [code] := by
  intro s c hc
  rw [firstFailure_single] at hc
  exact List.mem_singleton.2 (h hc)

theorem checksRaise_append {cs ds : List Check} {codes codes' : List Status} (hcs : ChecksRaise cs codes)
    (hds : ChecksRaise ds codes') : ChecksRaise (cs ++ ds) (codes ++ codes') := by
  intro s c hc
  rw [firstFailure_append, Option.or_eq_some_iff] at hc
  rcases hc with hc | ⟨-, hc⟩
  · exact List.mem_append_left _ (hcs s c hc)
  · exact List.mem_append_right _ (hds s c hc)

theorem engineChecks_raise : ChecksRaise engineChecks [.released, .kind] :=
  checksRaise_append (checksRaise_single checkReleased_code) (checksRaise_single checkEngineKind_code)

theorem hmacChecks_raise : ChecksRaise hmacChecks [.released, .kind] :=
  checksRaise_append (checksRaise_single checkReleased_code) (checksRaise_single checkHmacKind_code)

theorem sliceChecks_raise : ChecksRaise sliceChecks [.null, .negative, .range] :=
  checksRaise_append (checksRaise_single checkNull_code)
    (checksRaise_append (checksRaise_single checkNegative_code) (checksRaise_single checkRange_code))

theorem lengthCheck_raises : ChecksRaise [checkLength] [.length] := checksRaise_single checkLength_code

theorem keySizeCheck_raises : ChecksRaise [checkKeySize] [.config] := checksRaise_single checkKeySize_code

/-- R656: both configuration checks raise the one code. -/
theorem configChecks_raise (a : Alg) (imm : BitVec 16) : ChecksRaise [checkOutBits a imm, checkKeySize] [.config] := by
  intro s c hc
  have hmem := checksRaise_append (checksRaise_single checkOutBits_code) keySizeCheck_raises s c hc
  simpa using hmem

/-- R600: RDREG of ERRSTAT and SLOT, which need no instance, raises nothing. -/
theorem regChecks_raise (r : Reg) :
    ChecksRaise (regChecks r) (if r.number = 0x10#16 ∨ r.number = 0x11#16 then [] else [.released]) := by
  cases r with
  | blockSize | hashSize | outputSize | alg => exact checksRaise_single checkReleased_code
  | errstat | slot => exact checksRaise_nil

/-- R651: a command that runs checks and completes reports OK or a code of its checks. -/
theorem status_of_checksRaise {i : Instr} {cs : List Check} {codes : List Status} {v : State → W32}
    {d : State → List Byte} {u : State → State} {s t : State} {r : Result}
    (hrun : exec i = runChecked cs fun s => complete (v s) (d s) (u s)) (hcs : ChecksRaise cs codes)
    (h : exec i s = .next t) (hr : t.result = some r) : r.status = .ok ∨ r.status ∈ codes := by
  rcases runChecked_cases ((congrFun hrun s).symm.trans h) with ⟨c, hc, rfl⟩ | ⟨-, hnext⟩
  · rw [← Option.some.inj hr]
    exact .inr (hcs s c hc)
  · rw [complete_next hnext] at hr
    rw [← Option.some.inj hr]
    exact .inl rfl

/-- Settles O26: each command's checks raise the codes its row of R651's table lists, and a well-formed INIT or RDREG never
takes the branch of an illegal word. -/
theorem commandsReportOnlyTheirChecks : Obligations.CommandsReportOnlyTheirChecks := by
  intro i s t r hwf h hr
  cases i with
  | eInit c =>
    obtain ⟨a, ha⟩ := Option.isSome_iff_exists.1 hwf
    obtain rfl := ofCode?_eq_some ha
    rw [exec_eInit_code] at h
    rw [← Host.Outcome.next.inj h] at hr
    exact .inl (Option.some.inj hr ▸ rfl)
  | eReset | eFinalize | eRelease => exact status_of_checksRaise rfl engineChecks_raise h hr
  | eUpdate =>
    have hcs := checksRaise_append (checksRaise_append engineChecks_raise sliceChecks_raise) lengthCheck_raises
    exact status_of_checksRaise rfl hcs h hr
  | hInit c n =>
    obtain ⟨a, ha⟩ := Option.isSome_iff_exists.1 hwf
    obtain rfl := ofCode?_eq_some ha
    have hcs := checksRaise_append sliceChecks_raise (configChecks_raise a n)
    exact status_of_checksRaise (funext (exec_hInit_code a n)) hcs h hr
  | hSetkey =>
    have hcs := checksRaise_append (checksRaise_append hmacChecks_raise sliceChecks_raise) keySizeCheck_raises
    exact status_of_checksRaise rfl hcs h hr
  | hUpdate =>
    have hcs := checksRaise_append (checksRaise_append hmacChecks_raise sliceChecks_raise) lengthCheck_raises
    exact status_of_checksRaise rfl hcs h hr
  | hFinalize | hRelease | hGetkey => exact status_of_checksRaise rfl hmacChecks_raise h hr
  | rdreg n =>
    obtain ⟨reg, hreg⟩ := Option.isSome_iff_exists.1 hwf
    obtain rfl := ofNumber?_eq_some hreg
    exact status_of_checksRaise (funext (exec_rdreg_listed hreg)) (regChecks_raise reg) h hr

end Sys2Proof.Machine
end

section
/-! The clearing rule over a step (spec/70_reset_and_hazards.md R701, R708; spec/10_state.md R59): an engine's operations
keep its scratch clear, a release leaves the zero engine and no key material, and E_INIT over an HMAC instance clears its
pads and key. A failing command and an idle step change nothing that `Cleared` reads. -/

namespace Sys2Proof.Machine

/-! ### The scratch stays clear (R59) -/

/-- R59: whatever the number of blocks, none included. -/
theorem compressBlocks_scratch_of_cleared {e : Engine} (h : e.scratch = .cleared) (n : Nat) (d : List Byte) :
    (compressBlocks n e d).scratch = .cleared := by
  cases n with
  | zero => exact h
  | succ n => exact compressBlocks_scratch n.succ_pos e d

theorem drainPending_scratch_of_cleared {e : Engine} (h : e.scratch = .cleared) :
    (drainPending e).scratch = .cleared := by
  unfold drainPending
  split
  · rfl
  · exact h

theorem absorbDirect_scratch_of_cleared {e : Engine} (h : e.scratch = .cleared) (d : List Byte) :
    (absorbDirect e d).scratch = .cleared := compressBlocks_scratch_of_cleared h _ d

theorem engineUpdate_scratch_of_cleared {e : Engine} (h : e.scratch = .cleared) (d : List Byte) :
    (engineUpdate e d).scratch = .cleared := by
  have hfill : (fillPending (countInput e d.length) (d.take (pendingTake e d.length))).scratch = .cleared :=
    drainPending_scratch_of_cleared h
  exact absorbDirect_scratch_of_cleared hfill _

theorem absorbed_scratch (a : Alg) (m : List Byte) : (absorbed a m).scratch = .cleared :=
  engineUpdate_scratch_of_cleared rfl m

/-! ### What leaves the block cleared (R254, R263, R553, R557) -/

/-- R708: a block with an HMAC instance has only its scratch to keep clear. -/
theorem cleared_of_hmac {s : State} (hslot : s.slot = .hmac) (hscratch : s.engine.scratch = .cleared) : Cleared s :=
  ⟨by simp [hslot], fun hne => absurd hslot hne, hscratch⟩

/-- An engine command writes the engine of its instance, and the block holds no key material before it or after it. -/
theorem setEngine_cleared {s : State} {e : Engine} (h : Cleared s) (hslot : s.slot = .engine)
    (hscratch : e.scratch = .cleared) : Cleared (s.setEngine e) := by
  obtain ⟨-, hkey, -⟩ := h
  exact ⟨by simp [hslot], hkey, hscratch⟩

/-- R263, R69: zeroizing an engine whose scratch is clear leaves the engine of power-on reset. -/
theorem engineZeroize_eq_zero {e : Engine} (h : e.scratch = .cleared) : engineZeroize e = .zero :=
  congrArg (Engine.mk .zero [] 0) h

/-- R254: E_INIT clears an HMAC instance's pads and key, and over an empty slot or an engine none are there. -/
theorem constructEngine_cleared {s : State} (h : Cleared s) (a : Alg) : Cleared (constructEngine a s) := by
  obtain ⟨-, hkey, hscratch⟩ := h
  rw [constructEngine_eq]
  refine ⟨nofun, fun _ => ?_, hscratch⟩
  by_cases hslot : s.slot = .hmac
  · simp [hslot]
  · simpa [hslot] using hkey hslot

theorem releaseInstance_cleared_of_engine {s : State} (h : Cleared s) (hslot : s.slot = .engine) :
    Cleared (releaseInstance s) := by
  obtain ⟨-, hkey, hscratch⟩ := h
  rw [releaseInstance_of_engine hslot]
  exact ⟨fun _ => engineZeroize_eq_zero hscratch, fun _ => hkey (by simp [hslot]), hscratch⟩

theorem releaseInstance_cleared_of_hmac {s : State} (h : Cleared s) (hslot : s.slot = .hmac) :
    Cleared (releaseInstance s) := by
  obtain ⟨-, -, hscratch⟩ := h
  rw [releaseInstance_of_hmac hslot]
  exact ⟨fun _ => engineZeroize_eq_zero hscratch, fun _ => ⟨rfl, rfl, rfl, rfl⟩, hscratch⟩

/-! ### Commands and steps keep the block cleared -/

theorem effect_cleared {i : Instr} {s t : State} (hs : Cleared s) (h : Effect i s t) : Cleared t := by
  have ⟨_, _, hscratch⟩ := hs
  cases i with
  | eInit c => obtain ⟨a, -, rfl⟩ := h; exact constructEngine_cleared hs a
  | eReset => obtain ⟨hslot, rfl⟩ := h; exact setEngine_cleared (s := s) hs hslot hscratch
  | eUpdate =>
    obtain ⟨hslot, -, -, rfl⟩ := h
    exact setEngine_cleared (s := s) hs hslot (engineUpdate_scratch_of_cleared hscratch _)
  | eFinalize => obtain ⟨hslot, rfl⟩ := h; exact setEngine_cleared (s := s) hs hslot (engineFinish_scratch _)
  | eRelease => obtain ⟨hslot, rfl⟩ := h; exact releaseInstance_cleared_of_engine hs hslot
  | hInit c n =>
    obtain ⟨a, -, -, -, -, rfl⟩ := h
    refine cleared_of_hmac rfl ?_
    rw [setResult_engine, constructHmac_engine, absorbed_scratch]
  | hSetkey =>
    obtain ⟨hslot, -, -, rfl⟩ := h
    refine cleared_of_hmac hslot ?_
    rw [setResult_engine, hmacSetKey_engine_absorbed, absorbed_scratch]
  | hUpdate =>
    obtain ⟨hslot, -, -, rfl⟩ := h
    exact cleared_of_hmac hslot (engineUpdate_scratch_of_cleared hscratch _)
  | hFinalize =>
    obtain ⟨hslot, rfl⟩ := h
    refine cleared_of_hmac hslot ?_
    rw [setResult_engine, setEngine_engine, hmacReprime_eq_absorbed, absorbed_scratch]
  | hRelease => obtain ⟨hslot, rfl⟩ := h; exact releaseInstance_cleared_of_hmac hs hslot
  | hGetkey => obtain ⟨-, rfl⟩ := h; exact hs
  | rdreg n => obtain ⟨r, -, -, rfl⟩ := h; exact hs

theorem exec_cleared {i : Instr} {s t : State} (hs : Cleared s) (h : exec i s = .next t) : Cleared t := by
  rcases exec_cases h with ⟨c, -, rfl⟩ | heff
  · exact hs
  · exact effect_cleared hs heff

/-- Settles O37: a step holds the state, runs a command, or fails an illegal word. -/
theorem stepKeepsTheBlockCleared : Obligations.StepKeepsTheBlockCleared := by
  intro s t hs h
  rcases step_cases h with ⟨-, rfl⟩ | ⟨c, rest, i, -, -, hexec⟩ | ⟨c, rest, r, -, -, rfl⟩
  · exact hs
  · exact exec_cleared (s := s.setPort c.din rest) hs hexec
  · exact hs

end Sys2Proof.Machine
end
